-- ==== Sys2Proof/Word.lean ====
section
/-! DEFINITION. The word types of the block: a byte of a command payload and a 32-bit word (spec/20_memory.md R43:
the block moves samples of one byte, header words of four bytes, and 32-bit command words and register values). -/

namespace Sys2Proof

/-- One byte of a command payload (R39, R43). -/
abbrev Byte := BitVec 8

/-- A 32-bit word: a command word, an image header word or a register value (R43). -/
abbrev Word := BitVec 32

end Sys2Proof
end

