-- ==== Sys2Proof/Syntax.lean ====
section
/-! DEFINITION. The command set of the block: one constructor of `Instr` per row of spec/opcode_table.json
(spec/30_encoding.md R60), the registers READ_REG names, the ports, and a command as it is sent. -/

namespace Sys2Proof

/-- The four ports a command can arrive on (R3, R48). -/
inductive Port where
  /-- The control agent's port. -/
  | control
  /-- The streaming host's port. -/
  | sample
  /-- The message-semantics layer's port. -/
  | inject
  /-- The inbound engine's port. -/
  | status
deriving DecidableEq, Repr

/-- A command as it is sent: its 32-bit word and its payload, a byte list of known length (R54, R55). -/
structure Command where
  word : Word
  payload : List Byte
deriving DecidableEq, Repr

/-- The registers of the READ_REG view (10_state.md section 5, R32 to R37). -/
inductive Reg where
  | status
  | fault
  | curSlot
  | curSeg
  | curOff
  | qLevel
  | frameCount
  | paramOs
  | paramBpf
  | paramQdepth
  /-- A reserved register number, 0x0A to 0xFF (R37). -/
  | reserved (number : Nat)
deriving DecidableEq, Repr

/-- The commands, in the order of the opcode map (R60). -/
inductive Instr where
  /-- NOP (R102). -/
  | nop
  /-- RESET (R103). -/
  | reset
  /-- CONFIGURE with its payload, a superframe image (R80). -/
  | configure (image : List Byte)
  /-- PULL of at most `count` samples (R56, R84). -/
  | pull (count : Nat)
  /-- INJECT with its payload, a frame record (R94). -/
  | inject (record : List Byte)
  /-- SET_STATUS of the bit `bit` (R57, R99). -/
  | setStatus (bit : Bool)
  /-- READ_REG of the register `reg` (R58, R104). -/
  | readReg (reg : Reg)
deriving DecidableEq, Repr

/-- Why a command word is illegal: the four cases of R61. All of them raise the one fault ILLEGAL_COMMAND. -/
inductive Illegal where
  /-- Its OPC is 0x7 to 0xF. -/
  | reservedOpcode
  /-- Its RSV field is nonzero. -/
  | reservedField
  /-- Its ARG has a nonzero bit where R56 to R59 require 0. -/
  | reservedArgument
  /-- It carries a non-empty payload where R59 requires an empty one. -/
  | unexpectedPayload
deriving DecidableEq, Repr

end Sys2Proof
end

