-- ==== Sys2Proof/WellFormed.lean ====
section
/-! DEFINITION. Which terms of `Instr` a command word can carry (spec/30_encoding.md R56 to R58 and the operand ranges of
the assembler syntax R70). -/

namespace Sys2Proof

/-- A reserved register number lies in 0x0A to 0xFF (R37); a named register needs no check. -/
def Reg.wellFormed : Reg → Bool
  | .reserved number => decide (0x0A ≤ number ∧ number ≤ 0xFF)
  | .status | .fault | .curSlot | .curSeg | .curOff | .qLevel | .frameCount
  | .paramOs | .paramBpf | .paramQdepth => true

/-- The operand of a PULL fits its 24 bits (R56) and the register of a READ_REG its 8 (R58). -/
def Instr.wellFormed : Instr → Bool
  | .nop => true
  | .reset => true
  | .configure _ => true
  | .pull count => decide (count ≤ 0xFFFFFF)
  | .inject _ => true
  | .setStatus _ => true
  | .readReg reg => reg.wellFormed

end Sys2Proof
end

