-- ==== Sys2Proof/Decode.lean ====
section
/-! DEFINITION. Command words: byte order, the decoder of spec/30_encoding.md R62, and the encoder from the same tables
(R54 to R60). The decoder is total and rejects an illegal word by the name of the case of R61 it falls under. -/

namespace Sys2Proof

/-- `BE32` (R9, R42): four bytes, most-significant first, as one word. -/
def be32 (b0 b1 b2 b3 : Byte) : Word :=
  b0 ++ b1 ++ b2 ++ b3

/-- The four bytes of a word, most-significant first (R9, R42). -/
def wordBytes (w : Word) : List Byte :=
  [w.extractLsb' 24 8, w.extractLsb' 16 8, w.extractLsb' 8 8, w.extractLsb' 0 8]

/-- OPC, bits [31:28] of a command word (R54). -/
def opcField (w : Word) : BitVec 4 :=
  w.extractLsb' 28 4

/-- RSV, bits [27:24] of a command word (R54). -/
def rsvField (w : Word) : BitVec 4 :=
  w.extractLsb' 24 4

/-- ARG, bits [23:0] of a command word (R54). -/
def argField (w : Word) : BitVec 24 :=
  w.extractLsb' 0 24

/-- The register a register number names (10_state.md R32 to R37). -/
def Reg.ofNumber (number : Nat) : Reg :=
  match number with
  | 0x00 => .status
  | 0x01 => .fault
  | 0x02 => .curSlot
  | 0x03 => .curSeg
  | 0x04 => .curOff
  | 0x05 => .qLevel
  | 0x06 => .frameCount
  | 0x07 => .paramOs
  | 0x08 => .paramBpf
  | 0x09 => .paramQdepth
  | other => .reserved other

/-- The number of a register (10_state.md R32 to R37). -/
def Reg.number : Reg → Nat
  | .status => 0x00
  | .fault => 0x01
  | .curSlot => 0x02
  | .curSeg => 0x03
  | .curOff => 0x04
  | .qLevel => 0x05
  | .frameCount => 0x06
  | .paramOs => 0x07
  | .paramBpf => 0x08
  | .paramQdepth => 0x09
  | .reserved number => number

/-- A command without a payload: illegal with one (R59). -/
def payloadless (payload : List Byte) (i : Instr) : Except Illegal Instr :=
  if payload = [] then .ok i else .error .unexpectedPayload

/-- `Decode(w, P)` of R62: one command with its fields, or the case of R61 that makes the word illegal. -/
def decode (w : Word) (payload : List Byte) : Except Illegal Instr :=
  let arg := argField w
  if rsvField w ≠ 0 then .error .reservedField
  else
    match (opcField w).toNat with
    | 0x0 => if arg = 0 then payloadless payload .nop else .error .reservedArgument
    | 0x1 => if arg = 0 then payloadless payload .reset else .error .reservedArgument
    | 0x2 => if arg = 0 then .ok (.configure payload) else .error .reservedArgument
    | 0x3 => payloadless payload (.pull arg.toNat)
    | 0x4 => if arg = 0 then .ok (.inject payload) else .error .reservedArgument
    | 0x5 =>
      if arg.extractLsb' 1 23 = 0 then payloadless payload (.setStatus (arg.getLsbD 0))
      else .error .reservedArgument
    | 0x6 =>
      if arg.extractLsb' 8 16 = 0 then payloadless payload (.readReg (Reg.ofNumber (arg.extractLsb' 0 8).toNat))
      else .error .reservedArgument
    | _ => .error .reservedOpcode

/-- The opcode of a command (R60). -/
def Instr.opcode : Instr → BitVec 4
  | .nop => 0x0
  | .reset => 0x1
  | .configure _ => 0x2
  | .pull _ => 0x3
  | .inject _ => 0x4
  | .setStatus _ => 0x5
  | .readReg _ => 0x6

/-- The ARG field of a command (R56 to R59). -/
def Instr.argument : Instr → BitVec 24
  | .nop => 0
  | .reset => 0
  | .configure _ => 0
  | .pull count => BitVec.ofNat 24 count
  | .inject _ => 0
  | .setStatus bit => (BitVec.ofBool bit).zeroExtend 24
  | .readReg reg => BitVec.ofNat 24 reg.number

/-- The payload of a command (R59, R60). -/
def Instr.payload : Instr → List Byte
  | .nop => []
  | .reset => []
  | .configure image => image
  | .pull _ => []
  | .inject record => record
  | .setStatus _ => []
  | .readReg _ => []

/-- The port of the agent that issues a command (R48, R60). -/
def Instr.port : Instr → Port
  | .nop => .control
  | .reset => .control
  | .configure _ => .control
  | .pull _ => .sample
  | .inject _ => .inject
  | .setStatus _ => .status
  | .readReg _ => .control

/-- The words of a command: OPC, RSV = 0 and ARG (R54), and its payload. -/
def encode (i : Instr) : Command :=
  { word := i.opcode ++ (0 : BitVec 4) ++ i.argument, payload := i.payload }

/-- A command as the bytes that carry it: its word, most-significant byte first (R42), then its payload (R55). -/
def Command.bytes (c : Command) : List Byte :=
  wordBytes c.word ++ c.payload

/-- The command that a byte list carries; none when it is shorter than a command word, which no transport delivers (R55). -/
def Command.ofBytes : List Byte → Option Command
  | b0 :: b1 :: b2 :: b3 :: payload => some { word := be32 b0 b1 b2 b3, payload := payload }
  | _ => none

/-- The bytes, as the hardware takes them, of an opcode-table word: `w` below `2 ^ nbits` holds the command word in its low
32 bits and, above them, one payload byte after another. -/
def tableBytes (nbits w : Nat) : List Byte :=
  let v := w % 2 ^ nbits
  wordBytes (BitVec.ofNat 32 v) ++
    (List.range ((nbits - 32) / 8)).map fun k => BitVec.ofNat 8 (v >>> (32 + 8 * k))

/-- The instruction the decoder reads from an opcode-table word, or none where it refuses it. -/
def decodeTableWord (nbits w : Nat) : Option Instr :=
  match Command.ofBytes (tableBytes nbits w) with
  | none => none
  | some c => (decode c.word c.payload).toOption

end Sys2Proof
end

