-- ==== Sys2Proof/Config.lean ====
section
/-! DEFINITION. What one implementation of the block fixes: the build parameters of spec/00_scope.md R6. -/

namespace Sys2Proof

/-- The build parameters of R6, each with its legal range. A value of this type cannot be built outside those ranges.
The defaults of `bpf`, `linePol`, `biReset` and `qdepth` are the spec's own (R6). The spec leaves `os`, `maxFrames`,
`maxSegs` and `frameStoreBytes` OPEN: their defaults stand here only so that the type is seen to have a value, and
nothing reads them (the machine's parameters are those its state carries, `Config.build` after power-on). -/
structure Build where
  /-- `OS`: physical samples per line-code symbol. -/
  os : Nat := 1
  /-- `BPF`: bits per frame of the standard. -/
  bpf : Nat := 463
  /-- `LINE_POL`: line-code polarity of the status segment. -/
  linePol : Bool := false
  /-- `BI_RESET`: reset value of the status cell. -/
  biReset : Bool := true
  /-- `QDEPTH`: inject queue capacity in Frames; 0 means unbounded. -/
  qdepth : Nat := 0
  /-- `MAX_FRAMES`: largest Superframe frame count accepted; for this hardware at least 18. -/
  maxFrames : Nat := 18
  /-- `MAX_SEGS`: largest segment count of one Frame. -/
  maxSegs : Nat := 1
  /-- `FRAME_STORE_BYTES`: frame store capacity in sample bytes. -/
  frameStoreBytes : Nat := 1
  os_range : 1 ≤ os ∧ os ≤ 255 := by decide
  bpf_range : 1 ≤ bpf ∧ bpf ≤ 65535 := by decide
  qdepth_range : qdepth < 2 ^ 32 := by decide
  maxFrames_range : 18 ≤ maxFrames ∧ maxFrames ≤ 65535 := by decide
  maxSegs_range : 1 ≤ maxSegs ∧ maxSegs ≤ 65535 := by decide
  frameStoreBytes_range : 1 ≤ frameStoreBytes := by decide
deriving DecidableEq, Repr, Inhabited

/-- The parameters the block behind `State.reset` was built with. The spec leaves them to the implementation (R6;
93_implementation_defined.md I3, I4, I7 to I9), so the constant has no body: a statement about it holds for every
build (assumption log 1). -/
opaque Config.build : Build

end Sys2Proof
end

