-- ==== Sys2Proof/Machine/State.lean ====
section
/-! DEFINITION. The state of the block as plain data (spec/10_state.md), the faults and refusals of the model, and the
state right after power-on. The first group of fields of `State` is the record `S` of R15, field by field; the second
group is the model's own: the build parameters, what the agents have sent and not yet had carried out, the PULL in
progress, and the responses given (assumption log 1 to 4). -/

namespace Sys2Proof.Machine

/-- A sample: -1, 0 ("unused") or +1 (R11). -/
inductive Sample where
  | minus
  | unused
  | plus
deriving DecidableEq, Repr

/-- The kind of a Segment (R19). -/
inductive Kind where
  | status
  | message
  | eob
deriving DecidableEq, Repr

/-- A Segment (R19): its kind, the number of logical bits it carries, and its encoded symbol buffer, which is `[]` for
STATUS and EOB. -/
structure Segment where
  kind : Kind
  nbits : Nat
  samples : List Sample
deriving DecidableEq, Repr

/-- A Frame (R23). -/
structure Frame where
  filler : Bool
  ephemeral : Bool
  segs : List Segment
deriving DecidableEq, Repr

/-- The fault causes of R106. -/
inductive Cause where
  | illegalCommand
  | notConfigured
  | illegalState
  | imageTruncated
  | imageTrailing
  | reservedField
  | badSegmentKind
  | badSegmentLength
  | invalidSymbol
  | badFrameStructure
  | badFrameFlags
  | cycleLengthMismatch
  | frameLengthMismatch
  | capacity
deriving DecidableEq, Repr

/-- The response codes of R69. -/
inductive Code where
  | ok
  | full
  | fault
  | ignored
deriving DecidableEq, Repr

/-- The response that ends a command (R69), with the port the command arrived on. -/
structure Reply where
  port : Port
  code : Code
  data : BitVec 32
  samples : List Sample
deriving DecidableEq, Repr

/-- The cursor within the current Frame, and the latch: all that the micro-steps of a PULL move before its frame advance (R85,
R87). -/
structure PullCursor where
  seg : BitVec 16
  off : BitVec 32
  latch : Bool
deriving DecidableEq, Repr

/-- A PULL between two of its micro-steps (R84): the port it arrived on, its operand N, the samples emitted so far, and the cursor
and the latch its next micro-step starts from. They become those of `S` with the PULL's last micro-step, the only moment
from which another command could read them (R25, R49, R50; DEDUCED: assumption log 17). -/
structure PullRun where
  port : Port
  count : Nat
  out : List Sample
  cursor : PullCursor
deriving DecidableEq, Repr

/-- One entry of the interleaving the agents present to the block (R48, R49). -/
inductive Input where
  /-- A command arrives on a port. -/
  | command (port : Port) (cmd : Command)
  /-- The PULL in progress takes a micro-step before what stands behind this entry. -/
  | pullTurn
deriving DecidableEq, Repr

/-- The whole state. -/
@[ext]
structure State where
  /-- `S.configured`: a Superframe has been accepted. -/
  configured : Bool
  /-- `S.faulted`: a structural defect has been raised. -/
  faulted : Bool
  /-- `S.fault_cause`: the cause code of the first fault. -/
  faultCause : BitVec 8
  /-- `S.fault_opc`: the opcode of the command that raised it. -/
  faultOpc : BitVec 4
  /-- `S.FC`: the number of Frames in the Superframe. -/
  fc : BitVec 16
  /-- `S.SF`: the Superframe, in slot order. -/
  sf : List Frame
  /-- `S.slot`: the current Superframe slot. -/
  slot : BitVec 16
  /-- `S.seg`: the current Segment of the current Frame. -/
  seg : BitVec 16
  /-- `S.off`: the next sample of the current Segment. -/
  off : BitVec 32
  /-- `S.inj`: the injected Frame standing in for slot `S.slot`. -/
  inj : Option Frame
  /-- `S.Q`: the inject queue, oldest first. -/
  q : List Frame
  /-- `S.bi`: the channel-status (busy/idle) cell. -/
  bi : Bool
  /-- `S.latch`: the status bit held for the STATUS Segment being emitted. -/
  latch : Bool
  /-- The build parameters (R6). No step changes them. -/
  build : Build
  /-- The PULL in progress, between two of its micro-steps (R84, R14). -/
  pull : Option PullRun
  /-- The commands the agents have issued and the block has not yet carried out, in the order of the interleaving (R49). -/
  inputs : List Input
  /-- The port the command being carried out arrived on. -/
  port : Port
  /-- Every response given so far, oldest first (R69). -/
  replies : List Reply
deriving DecidableEq, Repr

/-- Why a step stops. All three are raised by a PULL micro-step alone, where the cursor names what the spec says does not
exist (R40: a location is defined only within its Segment). R30 rules such cursors out in every reachable state, so
each is safe: no run from `State.reset` meets one. -/
inductive Fault where
  /-- Raised by a frame advance whose next slot holds no Frame (R87 takes `mod S.FC` for `S.FC ≥ 1` only). Safe. -/
  | noFrame
  /-- Raised by a PULL micro-step whose cursor names no Segment (R26). Safe. -/
  | noSegment
  /-- Raised by a PULL micro-step whose cursor names no sample of its Segment (R40, R83). Safe. -/
  | noSample
deriving DecidableEq, Repr

/-- Why the model gives no meaning. -/
inductive Refusal where
  /-- Raised by `exec` for an instruction that has no meaning yet. Safe. No arm raises it now. -/
  | notModelled (mnemonic : String)
deriving DecidableEq, Repr

/-- What an instruction or a micro-step answers. -/
abbrev Result := Host.Outcome State Fault Refusal

/-- Power-on of a block built with the parameters `b`: the reset values of R38, no command issued and none answered. -/
def State.powerOn (b : Build) : State :=
  { configured := false
    faulted := false
    faultCause := 0x00
    faultOpc := 0x0
    fc := 0
    sf := []
    slot := 0
    seg := 0
    off := 0
    inj := none
    q := []
    bi := b.biReset
    latch := false
    build := b
    pull := none
    inputs := []
    port := .control
    replies := [] }

/-- The machine right after power-on (R38, R118), built with `Config.build`. -/
def State.reset : State :=
  State.powerOn Config.build

end Sys2Proof.Machine
end

