-- ==== Sys2Proof/Machine/Ops.lean ====
section
/-! DEFINITION. The named operations the meanings share: samples and line coding, the sizes of Segments and Frames, the
current Frame and Segment, reads of the frame store and the queue store, responses, fault entry and its only end. -/

namespace Sys2Proof.Machine

/-! ### Samples (R11, R64) -/

/-- The value of a sample (R11). -/
def Sample.value : Sample → Int
  | .minus => -1
  | .unused => 0
  | .plus => 1

/-- The byte form of a sample (R11). -/
def Sample.byte : Sample → Byte
  | .minus => 0xFF
  | .unused => 0x00
  | .plus => 0x01

/-- The sample an image byte stands for; an image may hold no other byte (R64, R76). -/
def sampleOfByte (byte : Byte) : Option Sample :=
  if byte = 0x01 then some .plus
  else if byte = 0xFF then some .minus
  else none

/-- `LinePair(b)` (R82): the line code of one logical bit. -/
def linePair (b : Build) (bit : Bool) : List Sample :=
  if (bit ^^ b.linePol) = true then List.replicate b.os .plus ++ List.replicate b.os .minus
  else List.replicate b.os .minus ++ List.replicate b.os .plus

/-! ### Sizes (R22, R23) -/

/-- The sample length of a Segment (R22). -/
def Segment.len (b : Build) (g : Segment) : Nat :=
  2 * g.nbits * b.os

/-- The bit count of a Frame (R23). -/
def Frame.bits (f : Frame) : Nat :=
  (f.segs.map Segment.nbits).sum

/-- The sample length of a Frame (R23). -/
def Frame.len (b : Build) (f : Frame) : Nat :=
  (f.segs.map (Segment.len b)).sum

/-- The sample bytes a Frame takes of the frame store (R39, R77). -/
def Frame.storeBytes (f : Frame) : Nat :=
  ((f.segs.filter fun g => g.kind = .message).map fun g => g.samples.length).sum

/-! ### The current Frame and Segment, and the two stores (R26, R40) -/

/-- `CurFrame(S)` (R26). -/
def State.curFrame (s : State) : Option Frame :=
  match s.inj with
  | some f => some f
  | none => s.sf[s.slot.toNat]?

/-- `CurSeg(S)` (R26). -/
def State.curSeg (s : State) : Option Segment :=
  match s.curFrame with
  | some f => f.segs[s.seg.toNat]?
  | none => none

/-- Where a location of the two stores lies (R40): in the Frame of a Superframe slot, or in the injected Frame. -/
inductive Source where
  | sf (slot : Nat)
  | inj
deriving DecidableEq, Repr

/-- A structured address `(src, slot, seg, off)` (R40). -/
structure Location where
  src : Source
  seg : Nat
  off : Nat
deriving DecidableEq, Repr

/-- `MemRead(addr, 1)` (R40): one sample of a MESSAGE Segment, and nothing elsewhere. -/
def State.memRead (s : State) (a : Location) : Option Sample :=
  let frame := match a.src with
    | .sf slot => s.sf[slot]?
    | .inj => s.inj
  match frame with
  | none => none
  | some f =>
    match f.segs[a.seg]? with
    | none => none
    | some g => if g.kind = .message then g.samples[a.off]? else none

/-- The structured address the cursor stands for (R83). -/
def State.cursorLocation (s : State) : Location :=
  { src := if s.inj.isSome then .inj else .sf s.slot.toNat, seg := s.seg.toNat, off := s.off.toNat }

/-! ### Responses (R69) -/

/-- The number of a response code (R69). -/
def Code.number : Code → Nat
  | .ok => 0
  | .full => 1
  | .fault => 2
  | .ignored => 3

/-- `respond(code, data)` (R13, R69): the command in progress ends with this response, which holds no samples. -/
def State.respond (s : State) (code : Code) (data : BitVec 32) : State :=
  { s with replies := s.replies ++ [{ port := s.port, code := code, data := data, samples := [] }] }

/-! ### Fault entry, and the end of the fault state (R106, R108, R112) -/

/-- The cause code of a fault (R106). -/
def Cause.code : Cause → BitVec 8
  | .illegalCommand => 0x01
  | .notConfigured => 0x02
  | .illegalState => 0x03
  | .imageTruncated => 0x04
  | .imageTrailing => 0x05
  | .reservedField => 0x06
  | .badSegmentKind => 0x07
  | .badSegmentLength => 0x08
  | .invalidSymbol => 0x09
  | .badFrameStructure => 0x0A
  | .badFrameFlags => 0x0B
  | .cycleLengthMismatch => 0x0C
  | .frameLengthMismatch => 0x0D
  | .capacity => 0x0E

/-- `raise Fault(cause)` during a command with opcode `opc` (R108): the fault record, and the response FAULT. -/
def State.raise (s : State) (opc : BitVec 4) (cause : Cause) : State :=
  State.respond { s with faulted := true, faultCause := cause.code, faultOpc := opc } .fault 0

/-- The only way out of the fault state (R112): every field of the block takes its reset value (R103, R118). What lies
outside the block stays: its build, the commands still to come, and the responses given. -/
def State.resetBlock (s : State) : State :=
  { State.powerOn s.build with inputs := s.inputs, port := s.port, replies := s.replies }

/-- The fault-state check of R63: a faulted block answers IGNORED and changes nothing. -/
def unlessFaulted (s : State) (run : Result) : Result :=
  if s.faulted then .next (s.respond .ignored 0) else run

/-- An illegal command (R61, R63): ILLEGAL_COMMAND with its opcode field, or IGNORED while faulted. -/
def execIllegal (opc : BitVec 4) (s : State) : Result :=
  unlessFaulted s (.next (s.raise opc .illegalCommand))

/-- `fault_o`, the block's one output signal (R110). -/
def State.faultOut (s : State) : Bool :=
  s.faulted

end Sys2Proof.Machine
end

