-- ==== Sys2Proof/Machine/Operands.lean ====
section
/-! DEFINITION. The payloads of CONFIGURE and INJECT: the parser of spec/40_configure.md (R72, R73, R77), whose checks stand
in the order the spec writes them, and the writer of the same image format (spec/30_encoding.md R65 to R68). The
parser reads a payload once, in increasing byte order, so it is a function of the bytes that are left. -/

namespace Sys2Proof.Machine

/-- What a parser answers: a value, or the first fault its checks find. -/
abbrev Parsed (α : Type) := Except Cause α

/-- One check of the parser: `cause` unless `ok`. -/
def require (ok : Bool) (cause : Cause) : Parsed Unit :=
  if ok then .ok () else .error cause

/-- `Take32` (R72): the next header word and the bytes after it. -/
def take32 : List Byte → Parsed (Word × List Byte)
  | b0 :: b1 :: b2 :: b3 :: rest => .ok (be32 b0 b1 b2 b3, rest)
  | _ => .error .imageTruncated

/-! ### Header fields (R65, R66, R67) -/

/-- Bits [31:16] of a superframe header: reserved (R65). -/
def superframeReserved (h : Word) : BitVec 16 :=
  h.extractLsb' 16 16

/-- Bits [29:16] of a frame or segment header: reserved (R66, R67). -/
def headerReserved (h : Word) : BitVec 14 :=
  h.extractLsb' 16 14

/-- Bits [15:0] of a header: FC, NSEG or NBITS (R65, R66, R67). -/
def headerCount (h : Word) : Nat :=
  (h.extractLsb' 0 16).toNat

/-- KIND, bits [31:30] of a segment header; 0b11 names no kind (R67). -/
def headerKind (g : Word) : Option Kind :=
  match (g.extractLsb' 30 2).toNat with
  | 0b00 => some .status
  | 0b01 => some .message
  | 0b10 => some .eob
  | _ => none

/-! ### The parser (R72, R73, R77) -/

/-- The samples of a sample block, refused at its first invalid byte (R76). -/
def readSamples : List Byte → Parsed (List Sample)
  | [] => .ok []
  | byte :: bytes =>
    match sampleOfByte byte with
    | none => .error .invalidSymbol
    | some v => do
      let vs ← readSamples bytes
      .ok (v :: vs)

/-- The sample block of a MESSAGE Segment: its length is checked before its values (R76). -/
def takeSamples (count : Nat) (bytes : List Byte) : Parsed (List Sample × List Byte) := do
  require (decide (count ≤ bytes.length)) .imageTruncated
  let samples ← readSamples (bytes.take count)
  .ok (samples, bytes.drop count)

/-- One segment record (the loop body of R73); `last` says whether it is the last one of its Frame. -/
def parseSegment (b : Build) (last : Bool) (bytes : List Byte) : Parsed (Segment × List Byte) := do
  let (g, bytes) ← take32 bytes
  require (headerReserved g = 0) .reservedField
  let nbits := headerCount g
  match headerKind g with
  | none => .error .badSegmentKind
  | some .status => do
    require (nbits = 1) .badSegmentLength
    .ok ({ kind := .status, nbits := nbits, samples := [] }, bytes)
  | some .eob => do
    require (nbits = 0) .badSegmentLength
    require last .badFrameStructure
    .ok ({ kind := .eob, nbits := nbits, samples := [] }, bytes)
  | some .message => do
    require (nbits != 0) .badSegmentLength
    let (samples, bytes) ← takeSamples (2 * nbits * b.os) bytes
    .ok ({ kind := .message, nbits := nbits, samples := samples }, bytes)

/-- The segment records of a Frame, `left` of them (the loop of R73). -/
def parseSegments (b : Build) : (left : Nat) → List Byte → Parsed (List Segment × List Byte)
  | 0, bytes => .ok ([], bytes)
  | left + 1, bytes => do
    let (g, bytes) ← parseSegment b (left = 0) bytes
    let (gs, bytes) ← parseSegments b left bytes
    .ok (g :: gs, bytes)

/-- Whether the last Segment of a list is an EOB (the final check of R73). -/
def endsInEob (gs : List Segment) : Bool :=
  (gs.getLast?.map Segment.kind) = some .eob

/-- `ParseFrame` (R73): one frame record and the bytes after it. -/
def parseFrame (b : Build) (bytes : List Byte) : Parsed (Frame × List Byte) := do
  let (h, bytes) ← take32 bytes
  require (headerReserved h = 0) .reservedField
  require (headerCount h != 0) .badFrameStructure
  require (decide (headerCount h ≤ b.maxSegs)) .capacity
  let (segs, bytes) ← parseSegments b (headerCount h) bytes
  require (endsInEob segs) .badFrameStructure
  .ok ({ filler := h.getLsbD 31, ephemeral := h.getLsbD 30, segs := segs }, bytes)

/-- The frame records of a Superframe, `left` of them, with `store` sample bytes taken so far (the loop of R77). -/
def parseFrames (b : Build) : (left store : Nat) → List Byte → Parsed (List Frame × List Byte)
  | 0, _, bytes => .ok ([], bytes)
  | left + 1, store, bytes => do
    let (f, bytes) ← parseFrame b bytes
    require (!f.ephemeral) .badFrameFlags
    require (decide (store + f.storeBytes ≤ b.frameStoreBytes)) .capacity
    let (fs, bytes) ← parseFrames b left (store + f.storeBytes) bytes
    .ok (f :: fs, bytes)

/-- The cycle-length law (R8, R78): the total sample length of the Frames is `FC × BPF × OS × 2`. -/
def cycleLawHolds (b : Build) (fs : List Frame) : Bool :=
  (fs.map (Frame.len b)).sum = fs.length * b.bpf * b.os * 2

/-- Every filler Frame has exactly `BPF` bits (R79). -/
def fillersFit (b : Build) (fs : List Frame) : Bool :=
  fs.all fun f => !f.filler || f.bits = b.bpf

/-- `ParseSuperframe` (R77): a whole CONFIGURE payload. -/
def parseSuperframe (b : Build) (bytes : List Byte) : Parsed (List Frame) := do
  let (h, bytes) ← take32 bytes
  require (superframeReserved h = 0) .reservedField
  require (headerCount h != 0 && decide (headerCount h ≤ b.maxFrames)) .capacity
  let (fs, bytes) ← parseFrames b (headerCount h) 0 bytes
  require (bytes = []) .imageTrailing
  require (cycleLawHolds b fs) .cycleLengthMismatch
  require (fillersFit b fs) .frameLengthMismatch
  .ok fs

/-- The frame record of an INJECT payload and the checks R94 makes on it, in its order. -/
def parseInject (b : Build) (bytes : List Byte) : Parsed Frame := do
  let (f, bytes) ← parseFrame b bytes
  require (bytes = []) .imageTrailing
  require (f.ephemeral && !f.filler) .badFrameFlags
  require (f.bits = b.bpf) .frameLengthMismatch
  .ok f

/-! ### The writer of the image format (R65 to R68) -/

/-- The KIND field of a Segment (R67). -/
def Kind.field : Kind → BitVec 2
  | .status => 0b00
  | .message => 0b01
  | .eob => 0b10

/-- A segment record (R67, R68): its header, then its sample bytes. -/
def Segment.record (g : Segment) : List Byte :=
  wordBytes (g.kind.field ++ (0 : BitVec 14) ++ BitVec.ofNat 16 g.nbits) ++ g.samples.map Sample.byte

/-- The header word of a Frame (R66). -/
def Frame.header (f : Frame) : Word :=
  BitVec.ofBool f.filler ++ BitVec.ofBool f.ephemeral ++ (0 : BitVec 14) ++ BitVec.ofNat 16 f.segs.length

/-- A frame record (R66, R68): an INJECT payload. -/
def Frame.record (f : Frame) : List Byte :=
  wordBytes f.header ++ f.segs.flatMap Segment.record

/-- A superframe image (R65, R68): a CONFIGURE payload. -/
def superframeImage (fs : List Frame) : List Byte :=
  wordBytes ((0 : BitVec 16) ++ BitVec.ofNat 16 fs.length) ++ fs.flatMap Frame.record

end Sys2Proof.Machine
end

