-- ==== Sys2Proof/Machine/Configure.lean ====
section
/-! DEFINITION. CONFIGURE (spec/40_configure.md). -/

namespace Sys2Proof.Machine

/-- What an accepted Superframe changes (R80): the Superframe, the cursor, the injected Frame and `S.configured`. -/
def State.loadSuperframe (s : State) (frames : List Frame) : State :=
  { s with
    sf := frames
    fc := BitVec.ofNat 16 frames.length
    slot := 0
    seg := 0
    off := 0
    inj := none
    configured := true }

/-- CONFIGURE (R80). -/
def execConfigure (image : List Byte) (s : State) : Result :=
  unlessFaulted s <|
    if s.configured then .next (s.raise 0x2 .illegalState)
    else
      match parseSuperframe s.build image with
      | .error cause => .next (s.raise 0x2 cause)
      | .ok frames => .next ((s.loadSuperframe frames).respond .ok 0)

end Sys2Proof.Machine
end

