-- ==== Sys2Proof/Machine/Flags.lean ====
section
/-! DEFINITION. The flags and registers of the READ_REG view (spec/10_state.md section 5): the phase of the schedule state
machine, the fields of STATUS and FAULT, and the value of every register. All of it is computed from the state and
none of it is stored (R31). -/

namespace Sys2Proof.Machine

/-- The state of the schedule state machine (R31). -/
inductive Phase where
  | emittingStatusIndicator
  | emittingMessage
  | atEndOfBurst
  | none
deriving DecidableEq, Repr

/-- `Phase(S)` (R31). A configured block whose cursor names no Segment, which R30 rules out, has phase none too
(assumption log 6). -/
def State.phase (s : State) : Phase :=
  if s.configured then
    match s.curSeg with
    | some g =>
      match g.kind with
      | .status => .emittingStatusIndicator
      | .message => .emittingMessage
      | .eob => .atEndOfBurst
    | Option.none => .none
  else .none

/-- The PHASE field of STATUS (R32). -/
def Phase.field : Phase → BitVec 2
  | .emittingStatusIndicator => 0
  | .emittingMessage => 1
  | .atEndOfBurst => 2
  | .none => 3

/-- Register STATUS (R32), its reserved bits first. -/
def State.statusWord (s : State) : BitVec 32 :=
  (0 : BitVec 25) ++ BitVec.ofBool s.latch ++ BitVec.ofBool s.bi ++ BitVec.ofBool s.inj.isSome
    ++ s.phase.field ++ BitVec.ofBool s.faulted ++ BitVec.ofBool s.configured

/-- Register FAULT (R33), its reserved bits first. -/
def State.faultWord (s : State) : BitVec 32 :=
  (0 : BitVec 20) ++ s.faultOpc ++ s.faultCause

/-- `RegValue(S, REG)` (R32 to R37). -/
def State.regValue (s : State) : Reg → BitVec 32
  | .status => s.statusWord
  | .fault => s.faultWord
  | .curSlot => s.slot.zeroExtend 32
  | .curSeg => s.seg.zeroExtend 32
  | .curOff => s.off
  | .qLevel => BitVec.ofNat 32 (min s.q.length (2 ^ 32 - 1))
  | .frameCount => s.fc.zeroExtend 32
  | .paramOs => BitVec.ofNat 32 s.build.os
  | .paramBpf => BitVec.ofNat 32 s.build.bpf
  | .paramQdepth => BitVec.ofNat 32 s.build.qdepth
  | .reserved _ => 0

end Sys2Proof.Machine
end

