-- ==== Sys2Proof/Machine/Control.lean ====
section
/-! DEFINITION. The control commands (spec/44_control.md): NOP, RESET and READ_REG. All three are carried out even while
the block is faulted (R63). -/

namespace Sys2Proof.Machine

/-- NOP (R102). -/
def execNop (s : State) : Result :=
  .next (s.respond .ok 0)

/-- RESET (R103). -/
def execReset (s : State) : Result :=
  .next (s.resetBlock.respond .ok 0)

/-- READ_REG (R104). -/
def execReadReg (reg : Reg) (s : State) : Result :=
  .next (s.respond .ok (s.regValue reg))

end Sys2Proof.Machine
end

