-- ==== Sys2Proof/Machine/Inject.lean ====
section
/-! DEFINITION. INJECT (spec/42_inject.md). -/

namespace Sys2Proof.Machine

/-- Whether a finite queue is full (R96); with `QDEPTH = 0` it never is. -/
def State.queueFull (s : State) : Bool :=
  decide (1 ≤ s.build.qdepth) && decide (s.q.length = s.build.qdepth)

/-- One atomic enqueue (R94). -/
def State.enqueue (s : State) (f : Frame) : State :=
  { s with q := s.q ++ [f] }

/-- INJECT (R94). -/
def execInject (record : List Byte) (s : State) : Result :=
  unlessFaulted s <|
    if s.configured then
      match parseInject s.build record with
      | .error cause => .next (s.raise 0x4 cause)
      | .ok f => if s.queueFull then .next (s.respond .full 0) else .next ((s.enqueue f).respond .ok 0)
    else .next (s.raise 0x4 .notConfigured)

end Sys2Proof.Machine
end

