-- ==== Sys2Proof/Machine/Pull.lean ====
section
/-! DEFINITION. PULL (spec/41_pull.md). A PULL is a sequence of micro-steps (R14, R84): `execPull` makes the checks and
takes the first one, and `resumePull` takes each later one, so that commands of the other ports can fall between any two of
them (R49). -/

namespace Sys2Proof.Machine

/-- The latch load of R85: a STATUS Segment takes the status cell at its offset 0. -/
def State.loadLatch (s : State) (g : Segment) : State :=
  if g.kind = .status ∧ s.off = 0 then { s with latch := s.bi } else s

/-- The sample at the cursor, whose current Segment is `g` (R83). An EOB has none. -/
def State.sampleAt (s : State) (g : Segment) : Option Sample :=
  match g.kind with
  | .status => (linePair s.build s.latch)[s.off.toNat]?
  | .message => s.memRead s.cursorLocation
  | .eob => none

/-- The cursor moves past one sample of the current Segment `g`, and to the next Segment when that exhausts it (R85). -/
def State.moveCursor (s : State) (g : Segment) : State :=
  if s.off.toNat + 1 = g.len s.build then { s with seg := s.seg + 1, off := 0 }
  else { s with off := s.off + 1 }

/-- `EmitStep()` (R85): the sample emitted and the state after it. -/
def State.emitStep (s : State) (g : Segment) : Option (Sample × State) :=
  let s := s.loadLatch g
  match s.sampleAt g with
  | none => none
  | some v => some (v, s.moveCursor g)

/-- The slot after the current one, cyclically (R87); none where `S.FC = 0`. -/
def State.nextSlot (s : State) : Option Nat :=
  if s.fc = 0 then none else some ((s.slot.toNat + 1) % s.fc.toNat)

/-- The cursor at the start of slot `slot`, with the ephemeral Frame destroyed (R87). -/
def State.enterSlot (s : State) (slot : Nat) : State :=
  { s with inj := none, slot := BitVec.ofNat 16 slot, seg := 0, off := 0 }

/-- The dequeue of R87: a filler slot takes the head of a non-empty queue. -/
def State.substitute (s : State) (f : Frame) : State :=
  match f.filler, s.q with
  | true, j :: rest => { s with inj := some j, q := rest }
  | true, [] => s
  | false, _ => s

/-- `FrameAdvance()` (R87); none where the next slot holds no Frame. -/
def State.frameAdvance (s : State) : Option State :=
  match s.nextSlot with
  | none => none
  | some slot =>
    match s.sf[slot]? with
    | none => none
    | some f => some ((s.enterSlot slot).substitute f)

/-- Where the cursor and the latch of the block stand. -/
def State.pullCursor (s : State) : PullCursor :=
  { seg := s.seg, off := s.off, latch := s.latch }

/-- The block with its cursor and its latch at `c`. -/
def State.atCursor (s : State) (c : PullCursor) : State :=
  { s with seg := c.seg, off := c.off, latch := c.latch }

/-- The end of a PULL (R84): its count and its samples, on the port it arrived on. -/
def State.finishPull (s : State) (r : PullRun) : State :=
  { s with
    pull := none
    replies := s.replies ++
      [{ port := r.port, code := .ok, data := BitVec.ofNat 32 r.out.length, samples := r.out }] }

/-- The end of a PULL that the fault state cuts short: IGNORED, with count 0 and no samples, on the port it arrived on (R63,
R84, R109). Nothing else changes, as behind an INJECT that faulted before the PULL (R50): only a PULL that is answered OK
moves the cursor and the latch of the block. -/
def State.ignorePull (s : State) (r : PullRun) : State :=
  { s with
    pull := none
    replies := s.replies ++ [{ port := r.port, code := .ignored, data := 0, samples := [] }] }

/-- The loop test of R84: the PULL goes on while it has room; else it has taken its last micro-step, and the block is where that
one left the cursor and the latch (DEDUCED: assumption log 17). -/
def State.continuePull (s : State) (r : PullRun) : State :=
  if r.out.length < r.count then { s with pull := some r } else (s.atCursor r.cursor).finishPull r

/-- `emit(v)` (R13): one sample more in the response of a PULL, after which its cursor stands at `c`. -/
def PullRun.emit (r : PullRun) (v : Sample) (c : PullCursor) : PullRun :=
  { r with out := r.out ++ [v], cursor := c }

/-- One turn of the loop of R84 for the PULL `r`, from its cursor: an EmitStep, or the FrameAdvance that ends it. -/
def pullMicroStep (r : PullRun) (s : State) : Result :=
  let here := s.atCursor r.cursor
  match here.curSeg with
  | none => .fault .noSegment
  | some g =>
    if g.kind = .eob then
      match here.frameAdvance with
      | none => .fault .noFrame
      | some next => .next (next.finishPull r)
    else
      match here.emitStep g with
      | none => .fault .noSample
      | some (v, next) => .next (s.continuePull (r.emit v next.pullCursor))

/-- The next turn of the PULL `r` in progress: a micro-step, or, where an INJECT inside it has faulted since, its end as a PULL
that was IGNORED. R109 emits no sample in the fault state, and by R50 that INJECT has the effect of one placed before the
PULL (DEDUCED, unsafe: assumption log 7). -/
def resumePull (r : PullRun) (s : State) : Result :=
  if s.faulted then .next (s.ignorePull r) else pullMicroStep r s

/-- The start of a PULL, up to and with its first micro-step; `PULL 0` takes none (R84). -/
def beginPull (count : Nat) (s : State) : Result :=
  let r : PullRun := { port := s.port, count := count, out := [], cursor := s.pullCursor }
  if count = 0 then .next (s.finishPull r) else pullMicroStep r s

/-- PULL (R84). -/
def execPull (count : Nat) (s : State) : Result :=
  unlessFaulted s <|
    if s.configured then beginPull count s else .next (s.raise 0x3 .notConfigured)

end Sys2Proof.Machine
end

