-- ==== Sys2Proof/Machine/StatusCell.lean ====
section
/-! DEFINITION. SET_STATUS (spec/43_status_cell.md). -/

namespace Sys2Proof.Machine

/-- The write of the status cell (R99). -/
def State.writeStatusCell (s : State) (bit : Bool) : State :=
  { s with bi := bit }

/-- SET_STATUS (R99): legal while unconfigured, IGNORED while faulted. -/
def execSetStatus (bit : Bool) (s : State) : Result :=
  unlessFaulted s (.next ((s.writeStatusCell bit).respond .ok 0))

end Sys2Proof.Machine
end

