-- ==== Sys2Proof/Machine/Dispatch.lean ====
section
/-! DEFINITION. One arm per command (spec/30_encoding.md R60, R63). -/

namespace Sys2Proof.Machine

/-- What a command does when its turn comes (R63). -/
def exec (i : Instr) (s : State) : Host.Outcome State Fault Refusal :=
  match i with
  | .nop => Sys2Proof.Machine.execNop s
  | .reset => Sys2Proof.Machine.execReset s
  | .configure image => Sys2Proof.Machine.execConfigure image s
  | .pull count => Sys2Proof.Machine.execPull count s
  | .inject record => Sys2Proof.Machine.execInject record s
  | .setStatus bit => Sys2Proof.Machine.execSetStatus bit s
  | .readReg reg => Sys2Proof.Machine.execReadReg reg s

end Sys2Proof.Machine
end

