-- ==== Sys2Proof/Machine/Fetch.lean ====
section
/-! DEFINITION. Which atomic step the block takes next (spec/20_memory.md R45, R48, R49). The agents' interleaving stands in
`State.inputs`, so every legal interleaving is some value of that list. -/

namespace Sys2Proof.Machine

/-- The next atomic step, with the state it starts from. -/
inductive Turn where
  /-- No agent has anything for the block. -/
  | idle
  /-- A turn given to a PULL when none is in progress: nothing happens. -/
  | pass (s : State)
  /-- The next turn of the PULL in progress. -/
  | micro (r : PullRun) (s : State)
  /-- A command with the opcode field `opc` that is illegal. -/
  | illegal (opc : BitVec 4) (s : State)
  /-- A command. -/
  | run (i : Instr) (s : State)

/-- Whether a command may fall between two micro-steps of a PULL: INJECT and SET_STATUS may, and the rest, illegal words
among them, falls between whole PULLs (R49, decision D21). -/
def fallsInsidePull (c : Command) : Bool :=
  match decode c.word c.payload with
  | .ok (.inject _) => true
  | .ok (.setStatus _) => true
  | .ok .nop | .ok .reset | .ok (.configure _) | .ok (.pull _) | .ok (.readReg _) => false
  | .error _ => false

/-- Whether a command on the port `p` must wait for the PULL `r`: it is of a kind that falls between whole PULLs, or of the
PULL's own port, which carries out its commands one at a time (R48, R49). -/
def waitsForPull (r : PullRun) (p : Port) (c : Command) : Bool :=
  !fallsInsidePull c || p = r.port

/-- The interleaving that is left (R49). -/
def State.withInputs (s : State) (rest : List Input) : State :=
  { s with inputs := rest }

/-- A command is taken off the interleaving to be carried out. -/
def State.accept (s : State) (p : Port) (rest : List Input) : State :=
  { s with inputs := rest, port := p }

/-- The command `c` is carried out now: decoded, and run or found illegal (R63). -/
def deliver (p : Port) (c : Command) (rest : List Input) (s : State) : Turn :=
  match decode c.word c.payload with
  | .ok i => .run i (s.accept p rest)
  | .error _ => .illegal (opcField c.word) (s.accept p rest)

/-- The next atomic step of the interleaving. While a PULL is in progress it moves on at every entry that is a turn for it or
must wait for it, and when no entry is left. -/
def nextTurn (s : State) : Turn :=
  match s.pull, s.inputs with
  | none, [] => .idle
  | none, .pullTurn :: rest => .pass (s.withInputs rest)
  | none, .command p c :: rest => deliver p c rest s
  | some r, [] => .micro r s
  | some r, .pullTurn :: rest => .micro r (s.withInputs rest)
  | some r, .command p c :: rest => if waitsForPull r p c then .micro r s else deliver p c rest s

end Sys2Proof.Machine
end

