-- ==== Sys2Proof/Machine/Step.lean ====
section
/-! DEFINITION. One step of the machine: one atomic step of spec/20_memory.md R45. -/

namespace Sys2Proof.Machine

/-- One atomic step: a command, an illegal command, or the next turn of the PULL in progress. With nothing to do the block
holds its state (R117). -/
def step (s : State) : Host.Outcome State Fault Refusal :=
  match nextTurn s with
  | .idle => .next s
  | .pass s' => .next s'
  | .micro r s' => resumePull r s'
  | .illegal opc s' => execIllegal opc s'
  | .run i s' => exec i s'

/-- An agent issues a command: it joins the interleaving behind what stands there. -/
def State.issue (s : State) (p : Port) (c : Command) : State :=
  { s with inputs := s.inputs ++ [.command p c] }

/-- `s` with the opcode-table word `w` as the command carried out next: first of the interleaving, on the port of the agent
that issues it (R48), and no PULL in progress, since most commands fall between whole PULLs (R49). -/
def State.withFetchWord (s : State) (nbits w : Nat) : State :=
  match Command.ofBytes (tableBytes nbits w) with
  | none => s
  | some c =>
    let p := match decode c.word c.payload with
      | .ok i => i.port
      | .error _ => .control
    { s with inputs := .command p c :: s.inputs, pull := none }

end Sys2Proof.Machine
end

