-- ==== Sys2Proof/Safety.lean ====
section
/-! DEFINITION. What a lawful state of the block is (spec/10_state.md R17 to R30) and what a Frame sends (spec/41_pull.md
R91), in the terms the statements use. -/

namespace Sys2Proof.Machine

/-! ### Lawful Segments, Frames and Superframes -/

/-- A Segment the state may hold (R19, R20, R21). -/
abbrev Segment.Legal (b : Build) (g : Segment) : Prop :=
  (g.kind = .status → g.nbits = 1 ∧ g.samples = []) ∧
  (g.kind = .eob → g.nbits = 0 ∧ g.samples = []) ∧
  (g.kind = .message →
    1 ≤ g.nbits ∧ g.nbits ≤ 65535 ∧ g.samples.length = 2 * g.nbits * b.os ∧ Sample.unused ∉ g.samples)

/-- A list of Segments whose last element is its only EOB (R23). -/
abbrev EndsInOnlyEob (gs : List Segment) : Prop :=
  endsInEob gs = true ∧ ∀ g ∈ gs.dropLast, g.kind ≠ .eob

/-- A Frame the state may hold, as far as its Segments go (R20, R23, and `MAX_SEGS` of R6). -/
abbrev Frame.Legal (b : Build) (f : Frame) : Prop :=
  f.segs.length ≤ b.maxSegs ∧ EndsInOnlyEob f.segs ∧ ∀ g ∈ f.segs, g.Legal b

/-- A Frame of the inject queue (R29, R95). -/
abbrev Frame.Injectable (b : Build) (f : Frame) : Prop :=
  f.Legal b ∧ f.ephemeral = true ∧ f.filler = false ∧ f.bits = b.bpf

/-- A Frame list that passes every check of R77 but those on the two lengths: its count, its Frames' shapes and flags, and
the capacity of the frame store. -/
abbrev WellShaped (b : Build) (fs : List Frame) : Prop :=
  (1 ≤ fs.length ∧ fs.length ≤ b.maxFrames) ∧
  (∀ f ∈ fs, f.Legal b ∧ f.ephemeral = false) ∧
  (fs.map Frame.storeBytes).sum ≤ b.frameStoreBytes

/-- A Superframe (R24): well shaped, under the cycle-length law of R8 in its bit form (R78), with every filler Frame of
`BPF` bits. -/
abbrev LawfulSuperframe (b : Build) (fs : List Frame) : Prop :=
  WellShaped b fs ∧ (fs.map Frame.bits).sum = fs.length * b.bpf ∧
  ∀ f ∈ fs, f.filler = true → f.bits = b.bpf

/-! ### Lawful states -/

/-- The cursor invariants of R30. That the current Segment exists says that the Frame and Segment indices are valid. -/
structure State.CursorOk (s : State) : Prop where
  slot_lt : s.slot.toNat < s.fc.toNat
  segment : ∃ g, s.curSeg = some g ∧ (g.kind = .eob → s.off = 0) ∧ (g.kind ≠ .eob → s.off.toNat < g.len s.build)
  injected_over_filler : s.inj ≠ none → ∃ f, s.sf[s.slot.toNat]? = some f ∧ f.filler = true

/-- What the spec says of every reachable state, field by field. -/
structure State.Inv (s : State) : Prop where
  /-- The fault record is clear while no fault is recorded (R18). -/
  record_clear : s.faulted = false → s.faultCause = 0 ∧ s.faultOpc = 0
  /-- A recorded cause is one of R106. -/
  record_known : s.faulted = true → ∃ c : Cause, s.faultCause = c.code
  /-- An unconfigured block holds no schedule (R17) and no queued Frame, and has no PULL in progress. -/
  unconfigured : s.configured = false →
    s.sf = [] ∧ s.fc = 0 ∧ s.slot = 0 ∧ s.seg = 0 ∧ s.off = 0 ∧ s.inj = none ∧ s.q = [] ∧ s.pull = none
  /-- A configured block holds a Superframe of `S.FC` Frames (R24). -/
  superframe : s.configured = true → LawfulSuperframe s.build s.sf ∧ s.fc.toNat = s.sf.length
  /-- Every queued Frame is injectable (R29). -/
  queue : ∀ f ∈ s.q, f.Injectable s.build
  /-- A finite queue holds at most `QDEPTH` Frames (R29). -/
  queue_bound : 1 ≤ s.build.qdepth → s.q.length ≤ s.build.qdepth
  /-- The injected Frame came out of the queue (R26, R29). -/
  injected : ∀ f, s.inj = some f → f.Injectable s.build
  /-- The cursor invariants hold in a configured block (R30). -/
  cursor : s.configured = true → s.CursorOk
  /-- A PULL in progress has room left, within its 24-bit operand (R56, R84), and has emitted no "unused" sample (R64). -/
  pull_room : ∀ r, s.pull = some r → r.out.length < r.count ∧ r.count ≤ 0xFFFFFF ∧ Sample.unused ∉ r.out
  /-- The cursor invariants hold where a PULL in progress stands too (R30, R86), in the Frame it has not left (R88). -/
  pull_cursor : ∀ r, s.pull = some r → (s.atCursor r.cursor).CursorOk

/-! ### What a Frame sends -/

/-- The samples of one Segment, a STATUS Segment carrying `bit` (R91). -/
def Segment.stream (b : Build) (bit : Bool) (g : Segment) : List Sample :=
  match g.kind with
  | .status => linePair b bit
  | .message => g.samples
  | .eob => []

/-- The samples of one Frame while the status cell holds `bit` (R91). -/
def Frame.stream (b : Build) (bit : Bool) (f : Frame) : List Sample :=
  f.segs.flatMap (Segment.stream b bit)

/-- What is left of the current Frame, from the cursor to its EOB, while the status cell keeps its value: a STATUS Segment
that has started carries the latch, a later one the cell (R28, R91). -/
def State.remaining (s : State) : List Sample :=
  match s.curFrame with
  | none => []
  | some f =>
    match f.segs.drop s.seg.toNat with
    | [] => []
    | g :: gs =>
      (g.stream s.build (if s.off = 0 then s.bi else s.latch)).drop s.off.toNat
        ++ gs.flatMap (Segment.stream s.build s.bi)

/-! ### Outcomes the statements name -/

/-- The block at the cursor that a PULL's next micro-step starts from: that of the PULL in progress, and else its own. -/
def State.atPull (s : State) : State :=
  match s.pull with
  | none => s
  | some r => s.atCursor r.cursor

/-- Where a step's command comes from: the head of the interleaving, taken when no PULL is in progress, or between two
micro-steps of a PULL on another port, which only an INJECT or a SET_STATUS is (R48, R49). -/
def TakesCommand (s : State) (p : Port) (c : Command) (rest : List Input) : Prop :=
  s.inputs = .command p c :: rest ∧
    (s.pull = none ∨ ∃ r, s.pull = some r ∧ p ≠ r.port ∧ fallsInsidePull c = true)

/-- The state after a fault of cause code `cause`, raised by a command with opcode `opc` (R107, R108): nothing but the fault
record changes, and the response is FAULT. -/
def State.afterFault (s : State) (opc : BitVec 4) (cause : BitVec 8) : State :=
  { s with
    faulted := true
    faultCause := cause
    faultOpc := opc
    replies := s.replies ++ [{ port := s.port, code := .fault, data := 0, samples := [] }] }

/-- The responses that stand in `t` after those of `s`. -/
def newReplies (s t : State) : List Reply :=
  t.replies.drop s.replies.length

end Sys2Proof.Machine
end

