-- ==== Sys2Proof/Certificates/Slice0/Obligations.lean ====
section
/-! DEFINITION. The statements for the provers. Each one's docstring names the rules of spec/ it formalises. A statement about
a next state written as one record states the frame too: every field the record does not name keeps its value, the
Superframe, the queue and the injected Frame among them, which are all the memory the block has (R39). -/

open Sys2Proof Sys2Proof.Machine

/-! ### Control commands -/

/-- R102: a NOP is the word 0x00000000 with an empty payload and nothing else; with an operand bit set it is
illegal. It answers OK with data 0 and changes nothing, in every state, faulted or not. -/
def Obligations.NopAnswersOkAndChangesNothing : Prop :=
  (∀ w payload, decode w payload = .ok .nop ↔ w = 0x00000000 ∧ payload = []) ∧
  (∀ arg : BitVec 24, arg ≠ 0 → decode ((0x00 : BitVec 8) ++ arg) [] = .error .reservedArgument) ∧
  ∀ s : State,
    exec .nop s =
      .next { s with replies := s.replies ++ [{ port := s.port, code := .ok, data := 0, samples := [] }] }

/-- R103, R118: a RESET is the word 0x10000000 with an empty payload and nothing else. Power-on and RESET give every field of
R15 its reset value (R38), from every state, faulted or not; only the build parameters stay. The response is OK. -/
def Obligations.PowerOnAndResetGiveResetValues : Prop :=
  (∀ w payload, decode w payload = .ok .reset ↔ w = 0x10000000 ∧ payload = []) ∧
  ∀ (b : Build) (s : State), ∃ t,
    exec .reset s = .next t ∧
    t.replies = s.replies ++ [{ port := s.port, code := .ok, data := 0, samples := [] }] ∧
    t.build = s.build ∧ (State.powerOn b).build = b ∧
    ∀ u ∈ [t, State.powerOn b],
      u.configured = false ∧ u.faulted = false ∧ u.faultCause = 0x00 ∧ u.faultOpc = 0x0 ∧ u.fc = 0 ∧ u.sf = [] ∧
      u.slot = 0 ∧ u.seg = 0 ∧ u.off = 0 ∧ u.inj = none ∧ u.q = [] ∧ u.bi = u.build.biReset ∧ u.latch = false

/-- The model's choice, assumption log 9: what lies outside the block is not touched by a RESET. The commands still to come
stay in their order and the responses given stay, but for the RESET's own; no PULL is in progress after it. -/
def Obligations.ResetKeepsWhatLiesOutsideTheBlock : Prop :=
  ∀ s t : State, exec .reset s = .next t →
    t.inputs = s.inputs ∧ t.port = s.port ∧ t.build = s.build ∧ s.replies <+: t.replies ∧ t.pull = none

/-- The register table of R38: what each register reads right after a RESET. -/
def Obligations.RegistersReadTheirResetValues : Prop :=
  ∀ s t, exec .reset s = .next t →
    ∀ reg, ∃ d,
      exec (.readReg reg) t =
        .next { t with replies := t.replies ++ [{ port := t.port, code := .ok, data := d, samples := [] }] } ∧
      match reg with
      | .status => d = if s.build.biReset then 0x0000002C else 0x0000000C
      | .fault | .curSlot | .curSeg | .curOff | .qLevel | .frameCount => d = 0
      | .paramOs => d.toNat = s.build.os
      | .paramBpf => d.toNat = s.build.bpf
      | .paramQdepth => d.toNat = s.build.qdepth
      | .reserved _ => d = 0

/-- R104 and R32 to R37, by register number: a READ_REG is the word 0x60000000 with the register number in its low eight bits
and an empty payload, and nothing else. It answers the value the spec lays out, bit by bit, and changes nothing. The
PHASE field is stated for an unconfigured block and for a configured one whose cursor names a Segment (R30, R31). -/
def Obligations.ReadRegAnswersEveryRegister : Prop :=
  (∀ w payload, (∃ reg, decode w payload = .ok (.readReg reg)) ↔
    (∃ n : BitVec 8, w = (0x600000 : BitVec 24) ++ n) ∧ payload = []) ∧
  ∀ (s : State) (n : BitVec 8), ∃ i d,
    decode ((0x600000 : BitVec 24) ++ n) [] = .ok i ∧
    exec i s = .next { s with replies := s.replies ++ [{ port := s.port, code := .ok, data := d, samples := [] }] } ∧
    (n = 0x00 →
      d.getLsbD 0 = s.configured ∧ d.getLsbD 1 = s.faulted ∧
      (s.configured = false → d.extractLsb' 2 2 = 3) ∧
      (∀ g, s.configured = true → s.curSeg = some g →
        d.extractLsb' 2 2 = match g.kind with | .status => 0 | .message => 1 | .eob => 2) ∧
      d.getLsbD 4 = s.inj.isSome ∧ d.getLsbD 5 = s.bi ∧ d.getLsbD 6 = s.latch ∧ d.extractLsb' 7 25 = 0) ∧
    (n = 0x01 → d.extractLsb' 0 8 = s.faultCause ∧ d.extractLsb' 8 4 = s.faultOpc ∧ d.extractLsb' 12 20 = 0) ∧
    (n = 0x02 → d.toNat = s.slot.toNat) ∧
    (n = 0x03 → d.toNat = s.seg.toNat) ∧
    (n = 0x04 → d.toNat = s.off.toNat) ∧
    (n = 0x05 → d.toNat = min s.q.length (2 ^ 32 - 1)) ∧
    (n = 0x06 → d.toNat = s.fc.toNat) ∧
    (n = 0x07 → d.toNat = s.build.os) ∧
    (n = 0x08 → d.toNat = s.build.bpf) ∧
    (n = 0x09 → d.toNat = s.build.qdepth) ∧
    (0x0A ≤ n.toNat → d = 0)

/-- R46, R104: a READ_REG of any register completes in every state without a side effect, so that two in a row answer the
same. -/
def Obligations.ReadRegTwiceAnswersTheSame : Prop :=
  ∀ (s : State) (reg : Reg), ∃ d t,
    exec (.readReg reg) s = .next t ∧
    t = { s with replies := s.replies ++ [{ port := s.port, code := .ok, data := d, samples := [] }] } ∧
    exec (.readReg reg) t =
      .next { t with replies := t.replies ++ [{ port := s.port, code := .ok, data := d, samples := [] }] }

/-! ### CONFIGURE -/

/-- R80: the image of every lawful Superframe is accepted by an unconfigured block that is not faulted. The Superframe is
loaded as it stands, the cursor goes to (0, 0, 0), and neither the queue, the status cell nor the latch is written. -/
def Obligations.ConfigureLoadsEveryLawfulSuperframe : Prop :=
  ∀ (s : State) (fs : List Frame), s.faulted = false → s.configured = false → LawfulSuperframe s.build fs →
    exec (.configure (superframeImage fs)) s =
      .next { s with
        configured := true
        sf := fs
        fc := BitVec.ofNat 16 fs.length
        slot := 0
        seg := 0
        off := 0
        inj := none
        replies := s.replies ++ [{ port := s.port, code := .ok, data := 0, samples := [] }] }

/-- R20, R21, R23, R24, R77: a CONFIGURE that raises no fault was given the image of the Superframe it loaded, byte for byte,
and that Superframe is lawful. -/
def Obligations.ConfigureAcceptsOnlyLawfulSuperframes : Prop :=
  ∀ (s t : State) (image : List Byte), s.faulted = false → exec (.configure image) s = .next t → t.faulted = false →
    s.configured = false ∧ t.configured = true ∧ LawfulSuperframe s.build t.sf ∧ image = superframeImage t.sf ∧
    t.fc.toNat = t.sf.length

/-- R80: a second CONFIGURE raises ILLEGAL_STATE (0x03), whatever its payload, and the first Superframe stays. -/
def Obligations.ConfigureWhileConfiguredFaults : Prop :=
  ∀ (s : State) (image : List Byte), s.faulted = false → s.configured = true →
    exec (.configure image) s = .next (s.afterFault 0x2 0x03)

/-- R72, R73: a CONFIGURE whose payload ends inside a lawful image, at whatever byte, raises IMAGE_TRUNCATED (0x04). -/
def Obligations.ConfigureRefusesTruncatedImage : Prop :=
  ∀ (s : State) (fs : List Frame) (image : List Byte), s.faulted = false → s.configured = false →
    WellShaped s.build fs → image <+: superframeImage fs → image ≠ superframeImage fs →
    exec (.configure image) s = .next (s.afterFault 0x2 0x04)

/-- R77: bytes after a whole image raise IMAGE_TRAILING (0x05), before either length check. -/
def Obligations.ConfigureRefusesTrailingBytes : Prop :=
  ∀ (s : State) (fs : List Frame) (extra : List Byte), s.faulted = false → s.configured = false →
    WellShaped s.build fs → extra ≠ [] →
    exec (.configure (superframeImage fs ++ extra)) s = .next (s.afterFault 0x2 0x05)

/-- R78, and the second check of R79: on a well-shaped image the cycle-length law decides first: CYCLE_LENGTH_MISMATCH (0x0C)
unless the Frames' lengths sum to `FC × BPF × OS × 2`, which is to say their bits to `FC × BPF`. Then every filler Frame
must have `BPF` bits (FRAME_LENGTH_MISMATCH, 0x0D). An image that passes both is loaded, whatever the bits of its other
Frames. -/
def Obligations.ConfigureChecksCycleThenFillers : Prop :=
  ∀ (s : State) (fs : List Frame), s.faulted = false → s.configured = false → WellShaped s.build fs →
    ((fs.map (Frame.len s.build)).sum = fs.length * s.build.bpf * s.build.os * 2 ↔
      (fs.map Frame.bits).sum = fs.length * s.build.bpf) ∧
    ((fs.map Frame.bits).sum ≠ fs.length * s.build.bpf →
      exec (.configure (superframeImage fs)) s = .next (s.afterFault 0x2 0x0C)) ∧
    ((fs.map Frame.bits).sum = fs.length * s.build.bpf → (∃ f ∈ fs, f.filler = true ∧ f.bits ≠ s.build.bpf) →
      exec (.configure (superframeImage fs)) s = .next (s.afterFault 0x2 0x0D)) ∧
    ((fs.map Frame.bits).sum = fs.length * s.build.bpf → (∀ f ∈ fs, f.filler = true → f.bits = s.build.bpf) →
      ∃ t, exec (.configure (superframeImage fs)) s = .next t ∧ t.sf = fs ∧ t.faulted = false)

/-- R77, R79: behind any number of good Frames, an ephemeral Frame raises BAD_FRAME_FLAGS (0x0B), and a Frame whose sample
bytes no longer fit the frame store raises CAPACITY (0x0E), whatever bytes follow. -/
def Obligations.ConfigureChecksFlagsThenFrameStore : Prop :=
  ∀ (s : State) (n : Nat) (good : List Frame) (bad : Frame) (rest : List Byte),
    s.faulted = false → s.configured = false → good.length < n → n ≤ s.build.maxFrames →
    (∀ f ∈ good, f.Legal s.build ∧ f.ephemeral = false) →
    (good.map Frame.storeBytes).sum ≤ s.build.frameStoreBytes → bad.Legal s.build →
    let image := wordBytes ((0 : BitVec 16) ++ BitVec.ofNat 16 n) ++ good.flatMap Frame.record ++ bad.record ++ rest
    (bad.ephemeral = true → exec (.configure image) s = .next (s.afterFault 0x2 0x0B)) ∧
    (bad.ephemeral = false → s.build.frameStoreBytes < (good.map Frame.storeBytes).sum + bad.storeBytes →
      exec (.configure image) s = .next (s.afterFault 0x2 0x0E))

/-- R65, R72, R75, R77: the superframe header. Fewer than four bytes raise IMAGE_TRUNCATED (0x04), a reserved bit raises
RESERVED_FIELD (0x06), and then a frame count of 0 or above MAX_FRAMES raises CAPACITY (0x0E). -/
def Obligations.ConfigureChecksTheSuperframeHeader : Prop :=
  ∀ (s : State) (h : Word) (rest : List Byte), s.faulted = false → s.configured = false →
    (∀ image, image.length < 4 → exec (.configure image) s = .next (s.afterFault 0x2 0x04)) ∧
    (h.extractLsb' 16 16 ≠ 0 → exec (.configure (wordBytes h ++ rest)) s = .next (s.afterFault 0x2 0x06)) ∧
    (h.extractLsb' 16 16 = 0 →
      ((h.extractLsb' 0 16).toNat = 0 ∨ s.build.maxFrames < (h.extractLsb' 0 16).toNat) →
      exec (.configure (wordBytes h ++ rest)) s = .next (s.afterFault 0x2 0x0E))

/-! ### INJECT -/

/-- R96 and R94: a configured block that is not faulted takes the record of every injectable Frame. A full finite queue
answers FULL and keeps nothing; any other queue takes the Frame at its tail. -/
def Obligations.InjectQueuesEveryInjectableFrame : Prop :=
  ∀ (s : State) (f : Frame), s.faulted = false → s.configured = true → f.Injectable s.build →
    exec (.inject f.record) s =
      .next (if 1 ≤ s.build.qdepth ∧ s.q.length = s.build.qdepth then
          { s with replies := s.replies ++ [{ port := s.port, code := .full, data := 0, samples := [] }] }
        else
          { s with
            q := s.q ++ [f]
            replies := s.replies ++ [{ port := s.port, code := .ok, data := 0, samples := [] }] })

/-- R94, R95, R96: an INJECT that raises no fault was given the record of an injectable Frame, byte for byte. Either it was
queued at the tail with response OK, or the queue was full and stayed as it was. -/
def Obligations.InjectAcceptsOnlyInjectableFrames : Prop :=
  ∀ (s t : State) (record : List Byte), s.faulted = false → exec (.inject record) s = .next t → t.faulted = false →
    s.configured = true ∧ ∃ f, record = f.record ∧ f.Injectable s.build ∧
      ((t.q = s.q ++ [f] ∧ newReplies s t = [{ port := s.port, code := .ok, data := 0, samples := [] }]) ∨
        (t.q = s.q ∧ 1 ≤ s.build.qdepth ∧ s.q.length = s.build.qdepth ∧
          newReplies s t = [{ port := s.port, code := .full, data := 0, samples := [] }]))

/-- R95: the record of a legal Frame with other flags raises BAD_FRAME_FLAGS (0x0B), and one with the flags but another bit
count raises FRAME_LENGTH_MISMATCH (0x0D); bytes after a legal record raise IMAGE_TRAILING (0x05) before either. -/
def Obligations.InjectChecksFlagsThenLength : Prop :=
  ∀ (s : State) (f : Frame) (extra : List Byte), s.faulted = false → s.configured = true → f.Legal s.build →
    (extra ≠ [] → exec (.inject (f.record ++ extra)) s = .next (s.afterFault 0x4 0x05)) ∧
    (¬(f.ephemeral = true ∧ f.filler = false) → exec (.inject f.record) s = .next (s.afterFault 0x4 0x0B)) ∧
    (f.ephemeral = true → f.filler = false → f.bits ≠ s.build.bpf →
      exec (.inject f.record) s = .next (s.afterFault 0x4 0x0D))

/-- R66, R72, R73, R75: the frame header of an INJECT. Fewer than four bytes raise IMAGE_TRUNCATED (0x04), a reserved bit
RESERVED_FIELD (0x06), a segment count of 0 BAD_FRAME_STRUCTURE (0x0A), and one above MAX_SEGS CAPACITY (0x0E). -/
def Obligations.InjectChecksTheFrameHeader : Prop :=
  ∀ (s : State) (h : Word) (rest : List Byte), s.faulted = false → s.configured = true →
    (∀ record, record.length < 4 → exec (.inject record) s = .next (s.afterFault 0x4 0x04)) ∧
    (h.extractLsb' 16 14 ≠ 0 → exec (.inject (wordBytes h ++ rest)) s = .next (s.afterFault 0x4 0x06)) ∧
    (h.extractLsb' 16 14 = 0 → (h.extractLsb' 0 16).toNat = 0 →
      exec (.inject (wordBytes h ++ rest)) s = .next (s.afterFault 0x4 0x0A)) ∧
    (h.extractLsb' 16 14 = 0 → s.build.maxSegs < (h.extractLsb' 0 16).toNat →
      exec (.inject (wordBytes h ++ rest)) s = .next (s.afterFault 0x4 0x0E))

/-- R73, R75, R76: behind any number of good Segments, the first bad segment record decides the fault, by the checks of R73
in their order; and a Frame whose last Segment is no EOB raises BAD_FRAME_STRUCTURE (0x0A) when all are read. -/
def Obligations.InjectReportsTheFirstBadSegment : Prop :=
  ∀ (s : State) (flags : BitVec 2) (n : Nat) (good : List Segment) (g : Word) (rest : List Byte),
    s.faulted = false → s.configured = true → n ≤ s.build.maxSegs → good.length < n →
    (∀ x ∈ good, x.Legal s.build ∧ x.kind ≠ .eob) →
    let front := wordBytes (flags ++ (0 : BitVec 14) ++ BitVec.ofNat 16 n) ++ good.flatMap Segment.record
    let kind := (g.extractLsb' 30 2).toNat
    let nbits := (g.extractLsb' 0 16).toNat
    let size := 2 * nbits * s.build.os
    let raises (cause : BitVec 8) : Prop :=
      exec (.inject (front ++ wordBytes g ++ rest)) s = .next (s.afterFault 0x4 cause)
    (∀ short, short.length < 4 → exec (.inject (front ++ short)) s = .next (s.afterFault 0x4 0x04)) ∧
    (g.extractLsb' 16 14 ≠ 0 → raises 0x06) ∧
    (g.extractLsb' 16 14 = 0 →
      (kind = 0b11 → raises 0x07) ∧
      (kind = 0b00 → nbits ≠ 1 → raises 0x08) ∧
      (kind = 0b10 → nbits ≠ 0 → raises 0x08) ∧
      (kind = 0b01 → nbits = 0 → raises 0x08) ∧
      (kind = 0b10 → nbits = 0 → good.length + 1 < n → raises 0x0A) ∧
      (kind = 0b01 → 1 ≤ nbits → rest.length < size → raises 0x04) ∧
      (kind = 0b01 → 1 ≤ nbits → size ≤ rest.length → (∃ x ∈ rest.take size, x ≠ 0x01 ∧ x ≠ 0xFF) → raises 0x09) ∧
      (kind = 0b00 → nbits = 1 → good.length + 1 = n → raises 0x0A) ∧
      (kind = 0b01 → 1 ≤ nbits → size ≤ rest.length → (∀ x ∈ rest.take size, x = 0x01 ∨ x = 0xFF) →
        good.length + 1 = n → raises 0x0A))

/-- One parser serves both commands (40_configure.md R73): bytes whose frame record makes an INJECT raise a fault of the
parser make a CONFIGURE raise the same one when they stand behind any number of good Frames. The causes left out are
those of R94's own checks, which come after the parser. -/
def Obligations.ConfigureAndInjectShareTheFrameParser : Prop :=
  ∀ (s u : State) (n : Nat) (good : List Frame) (bytes : List Byte) (cause : BitVec 8),
    s.faulted = false → s.configured = false → u.faulted = false → u.configured = true → u.build = s.build →
    good.length < n → n ≤ s.build.maxFrames → (∀ f ∈ good, f.Legal s.build ∧ f.ephemeral = false) →
    (good.map Frame.storeBytes).sum ≤ s.build.frameStoreBytes →
    cause ≠ 0x05 → cause ≠ 0x0B → cause ≠ 0x0D →
    exec (.inject bytes) u = .next (u.afterFault 0x4 cause) →
    exec (.configure (wordBytes ((0 : BitVec 16) ++ BitVec.ofNat 16 n) ++ good.flatMap Frame.record ++ bytes)) s =
      .next (s.afterFault 0x2 cause)

/-! ### SET_STATUS, and the commands before construction and after a fault -/

/-- R99: a SET_STATUS is the word 0x50000000 with its bit in bit 0 and an empty payload, and nothing else. It writes the status
cell and nothing else, configured or not; STATUS.BI reads the new value at once. In a faulted block it is IGNORED. A word
with another operand bit set is illegal. -/
def Obligations.SetStatusWritesTheCell : Prop :=
  (∀ w payload bit, decode w payload = .ok (.setStatus bit) ↔
    w = (if bit then 0x50000001 else 0x50000000) ∧ payload = []) ∧
  (∀ arg : BitVec 24, arg.extractLsb' 1 23 ≠ 0 → decode ((0x50 : BitVec 8) ++ arg) [] = .error .reservedArgument) ∧
  ∀ (s : State) (bit : Bool),
    (s.faulted = false →
      let t := { s with
        bi := bit
        replies := s.replies ++ [{ port := s.port, code := .ok, data := 0, samples := [] }] }
      exec (.setStatus bit) s = .next t ∧ t.statusWord.getLsbD 5 = bit) ∧
    (s.faulted = true →
      exec (.setStatus bit) s =
        .next { s with replies := s.replies ++ [{ port := s.port, code := .ignored, data := 0, samples := [] }] })

/-- R84, R94: before a CONFIGURE has been accepted, PULL and INJECT raise NOT_CONFIGURED (0x02) and emit and queue nothing. -/
def Obligations.PullAndInjectNeedAConfiguration : Prop :=
  ∀ (s : State) (n : Nat) (record : List Byte), s.faulted = false → s.configured = false →
    exec (.pull n) s = .next (s.afterFault 0x3 0x02) ∧ exec (.inject record) s = .next (s.afterFault 0x4 0x02)

/-- R109: a faulted block answers every command but NOP, RESET and READ_REG with IGNORED and changes nothing; so it does an
illegal word (R63). No step taken in the fault state, one that moves a PULL in progress on among them, emits a sample or
queues a Frame: no response it gives holds a sample, no PULL gains one, and the queue stays. The state is sticky: it lasts,
but for a RESET. -/
def Obligations.FaultedBlockIgnoresCommands : Prop :=
  ∀ s : State, s.faulted = true →
    (∀ i, i ≠ .nop → i ≠ .reset → (∀ reg, i ≠ .readReg reg) →
      exec i s =
        .next { s with replies := s.replies ++ [{ port := s.port, code := .ignored, data := 0, samples := [] }] }) ∧
    (∀ p c rest e, TakesCommand s p c rest → decode c.word c.payload = .error e →
      step s =
        .next { s with
          inputs := rest
          port := p
          replies := s.replies ++ [{ port := p, code := .ignored, data := 0, samples := [] }] }) ∧
    ∀ t, step s = .next t →
      (∀ rep ∈ newReplies s t, rep.samples = []) ∧ (∀ r, t.pull = some r → s.pull = some r) ∧
      ((t.faulted = true ∧ t.q = s.q) ∨
        (t.q = [] ∧ ∃ p c rest, TakesCommand s p c rest ∧ decode c.word c.payload = .ok .reset))

/-- The model's reading of R50, R109 and R128 for a PULL in progress when an INJECT inside it faults, assumption log 7: at its
next turn, which comes when no agent has anything for the block, at a turn given to the PULL, or before a command that
must wait for it, the PULL ends with IGNORED, count 0 and no samples. Nothing else changes: the cursor and the latch are where
they were when the PULL started, since only the last micro-step of a PULL moves them (assumption log 17). -/
def Obligations.PullInProgressEndsIgnoredWhileFaulted : Prop :=
  ∀ (s : State) (r : PullRun), s.faulted = true → s.pull = some r →
    let ended (inputs : List Input) : State :=
      { s with
        pull := none
        inputs := inputs
        replies := s.replies ++ [{ port := r.port, code := .ignored, data := 0, samples := [] }] }
    (s.inputs = [] → step s = .next (ended [])) ∧
    (∀ rest, s.inputs = .pullTurn :: rest → step s = .next (ended rest)) ∧
    ∀ p c rest, s.inputs = .command p c :: rest →
      (p = r.port ∨
        ((∀ record, decode c.word c.payload ≠ .ok (.inject record)) ∧
          ∀ bit, decode c.word c.payload ≠ .ok (.setStatus bit))) →
      step s = .next (ended (.command p c :: rest))

/-- R107, R108: a command that raises a fault, an illegal word among them, changes nothing but the fault record: a cause of
R106 and the opcode of the command. Its response is FAULT. No micro-step of a PULL raises one. -/
def Obligations.FaultEntryChangesOnlyTheFaultRecord : Prop :=
  (∀ (i : Instr) (s t : State), s.faulted = false → exec i s = .next t → t.faulted = true →
    ∃ cause : BitVec 8, 0x01 ≤ cause.toNat ∧ cause.toNat ≤ 0x0E ∧ t = s.afterFault i.opcode cause) ∧
  (∀ (s t : State) (p : Port) (c : Command) (rest : List Input) (e : Illegal), s.faulted = false →
    TakesCommand s p c rest → decode c.word c.payload = .error e → step s = .next t →
    t = State.afterFault { s with inputs := rest, port := p } (c.word.extractLsb' 28 4) 0x01) ∧
  ∀ (r : PullRun) (s t : State), pullMicroStep r s = .next t →
    t.faulted = s.faulted ∧ t.faultCause = s.faultCause ∧ t.faultOpc = s.faultOpc

/-- R112: no step but a RESET ends the fault state, and it discards the whole state. Until then neither the cause nor the opcode
recorded changes. -/
def Obligations.OnlyResetEndsTheFaultState : Prop :=
  ∀ s t : State, s.faulted = true → step s = .next t →
    (t.faulted = true ∧ t.faultCause = s.faultCause ∧ t.faultOpc = s.faultOpc) ∨
    (t.faulted = false ∧ t.faultCause = 0 ∧ t.faultOpc = 0 ∧ t.configured = false ∧ t.sf = [] ∧ t.fc = 0 ∧ t.slot = 0 ∧
      t.seg = 0 ∧ t.off = 0 ∧ t.inj = none ∧ t.q = [] ∧ t.bi = t.build.biReset ∧ t.latch = false ∧
      ∃ p c rest, TakesCommand s p c rest ∧ decode c.word c.payload = .ok .reset)

/-! ### PULL -/

/-- R84: a PULL of 0 samples answers OK with count 0 and changes nothing. -/
def Obligations.PullZeroChangesNothing : Prop :=
  ∀ s : State, s.faulted = false → s.configured = true → s.pull = none →
    exec (.pull 0) s =
      .next { s with replies := s.replies ++ [{ port := s.port, code := .ok, data := 0, samples := [] }] }

/-- R87: a PULL that finds the cursor on an EOB advances the frame and answers OK with count 0. The next slot is entered
cyclically at offset 0 of Segment 0, an injected Frame is destroyed, and a filler slot takes the head of a non-empty
queue. -/
def Obligations.PullOnEndOfBurstAdvancesTheFrame : Prop :=
  ∀ (s : State) (n : Nat) (g : Segment) (f : Frame), s.faulted = false → s.configured = true → 1 ≤ n →
    s.curSeg = some g → g.kind = .eob → s.fc ≠ 0 → s.sf[(s.slot.toNat + 1) % s.fc.toNat]? = some f →
    exec (.pull n) s =
      .next { s with
        slot := BitVec.ofNat 16 ((s.slot.toNat + 1) % s.fc.toNat)
        seg := 0
        off := 0
        inj := if f.filler then s.q.head? else none
        q := if f.filler then s.q.tail else s.q
        pull := none
        replies := s.replies ++ [{ port := s.port, code := .ok, data := 0, samples := [] }] }

/-- R28, R83, R85: the first micro-step of a PULL on a STATUS or MESSAGE Segment emits the sample at the cursor, loads the
latch exactly at offset 0 of a STATUS Segment, and moves the cursor to the next sample, or past the end of the Segment
to the next one. A PULL of one sample ends there, and the cursor and the latch of the block move; a longer one goes on from
the moved cursor and latch, which are its own until it ends (assumption log 17). -/
def Obligations.PullEmitsTheSampleAtTheCursor : Prop :=
  ∀ (s : State) (n : Nat) (g : Segment), s.faulted = false → s.configured = true → 1 ≤ n →
    s.curSeg = some g → g.kind ≠ .eob → g.Legal s.build → s.off.toNat < g.len s.build →
    let bit := if g.kind = .status ∧ s.off = 0 then s.bi else s.latch
    ∃ v,
      (g.kind = .status → (linePair s.build bit)[s.off.toNat]? = some v) ∧
      (g.kind = .message → g.samples[s.off.toNat]? = some v) ∧
      let after : PullCursor :=
        { seg := if s.off.toNat + 1 = 2 * g.nbits * s.build.os then s.seg + 1 else s.seg
          off := if s.off.toNat + 1 = 2 * g.nbits * s.build.os then 0 else s.off + 1
          latch := bit }
      exec (.pull n) s =
        .next (if n = 1 then
            { s with
              seg := after.seg
              off := after.off
              latch := after.latch
              pull := none
              replies := s.replies ++ [{ port := s.port, code := .ok, data := 1, samples := [v] }] }
          else { s with pull := some { port := s.port, count := n, out := [v], cursor := after } })

/-- R83, R85, and the loop test of R84: every micro-step of a PULL `r` on a STATUS or MESSAGE Segment is one EmitStep, from the
cursor and the latch of `r`. It loads the latch exactly at offset 0 of a STATUS Segment, appends the sample at the cursor,
of the line code of the latch or of the Segment's buffer in the injected Frame or the Superframe, and moves the cursor by
one sample, past the end of the Segment to offset 0 of the next. The PULL goes on from there while it has room, and else
ends with its count and samples, and the block's cursor and latch are there (assumption log 17). -/
def Obligations.MicroStepIsOneEmitStep : Prop :=
  ∀ (s : State) (r : PullRun) (g : Segment),
    let c := r.cursor
    (s.atCursor c).curSeg = some g → g.kind ≠ .eob → g.Legal s.build → c.off.toNat < g.len s.build →
    let bit := if g.kind = .status ∧ c.off = 0 then s.bi else c.latch
    let location : Location :=
      { src := if s.inj = none then .sf s.slot.toNat else .inj, seg := c.seg.toNat, off := c.off.toNat }
    let after : PullCursor :=
      { seg := if c.off.toNat + 1 = 2 * g.nbits * s.build.os then c.seg + 1 else c.seg
        off := if c.off.toNat + 1 = 2 * g.nbits * s.build.os then 0 else c.off + 1
        latch := bit }
    ∃ v,
      (g.kind = .status → (linePair s.build bit)[c.off.toNat]? = some v) ∧
      (g.kind = .message → s.memRead location = some v) ∧
      (s.atCursor c).emitStep g = some (v, s.atCursor after) ∧
      pullMicroStep r s =
        .next (if r.out.length + 1 < r.count then { s with pull := some { r with out := r.out ++ [v], cursor := after } }
          else
            { s with
              seg := after.seg
              off := after.off
              latch := after.latch
              pull := none
              replies := s.replies ++
                [{ port := r.port
                   code := .ok
                   data := BitVec.ofNat 32 (r.out.length + 1)
                   samples := r.out ++ [v] }] })

/-- R87: every micro-step of a PULL `r` on an EOB is one FrameAdvance, which ends the PULL. The injected Frame is destroyed, the
next slot is entered cyclically at offset 0 of Segment 0, and a filler slot takes the head of a non-empty queue. The latch
of the block is then the one `r` had come to (assumption log 17). -/
def Obligations.MicroStepOnEndOfBurstIsOneFrameAdvance : Prop :=
  ∀ (s : State) (r : PullRun) (g : Segment) (f : Frame),
    (s.atCursor r.cursor).curSeg = some g → g.kind = .eob → s.fc ≠ 0 →
    s.sf[(s.slot.toNat + 1) % s.fc.toNat]? = some f →
    pullMicroStep r s =
      .next { s with
        slot := BitVec.ofNat 16 ((s.slot.toNat + 1) % s.fc.toNat)
        seg := 0
        off := 0
        latch := r.cursor.latch
        inj := if f.filler = true ∧ s.q ≠ [] then s.q.head? else none
        q := if f.filler = true ∧ s.q ≠ [] then s.q.tail else s.q
        pull := none
        replies := s.replies ++
          [{ port := r.port, code := .ok, data := BitVec.ofNat 32 r.out.length, samples := r.out }] }

/-- R25: the cursor changes only by the micro-steps of a PULL, and by a CONFIGURE or a RESET, which set it to (0, 0, 0). A
micro-step after which the PULL is still in progress leaves the block's cursor too: it moves the PULL's own, which becomes
the block's with the last one (assumption log 17). -/
def Obligations.CursorMovesOnlyByPullConfigureAndReset : Prop :=
  ∀ s t : State, step s = .next t →
    (t.slot = s.slot ∧ t.seg = s.seg ∧ t.off = s.off) ∨
    (s.faulted = false ∧ t.pull = none ∧
      ((∃ r, s.pull = some r ∧ step s = pullMicroStep r { s with inputs := t.inputs }) ∨
        ∃ p c rest n, TakesCommand s p c rest ∧ decode c.word c.payload = .ok (.pull n))) ∨
    (t.slot = 0 ∧ t.seg = 0 ∧ t.off = 0 ∧ ∃ p c rest, TakesCommand s p c rest ∧
      (decode c.word c.payload = .ok .reset ∨ ∃ image, decode c.word c.payload = .ok (.configure image)))

/-- R84, R88, R89, R90, R125: a whole PULL that no other command interrupts. In at most N steps after its first it ends; it
returns the first N samples of what is left of the current Frame. With N samples or more left, the Frame is not left
and the rest remains; with fewer, the frame is advanced (R87). -/
def Obligations.PullReturnsWhatIsLeftOfTheFrame : Prop :=
  ∀ (s : State) (n : Nat), s.Inv → s.faulted = false → s.configured = true → s.pull = none → s.inputs = [] →
    n ≤ 0xFFFFFF →
    ∃ t₀ k t, exec (.pull n) s = .next t₀ ∧ k ≤ n ∧ Sys2Proof.core.run k t₀ = .next t ∧
      t.pull = none ∧ t.sf = s.sf ∧ t.bi = s.bi ∧
      t.replies = s.replies ++
        [{ port := s.port
           code := .ok
           data := BitVec.ofNat 32 (min n s.remaining.length)
           samples := s.remaining.take n }] ∧
      (n ≤ s.remaining.length →
        t.slot = s.slot ∧ t.inj = s.inj ∧ t.q = s.q ∧ t.remaining = s.remaining.drop n) ∧
      (s.remaining.length < n →
        t.seg = 0 ∧ t.off = 0 ∧ t.slot.toNat = (s.slot.toNat + 1) % s.fc.toNat ∧
        ∃ f, s.sf[(s.slot.toNat + 1) % s.fc.toNat]? = some f ∧
          t.inj = (if f.filler then s.q.head? else none) ∧ t.q = if f.filler then s.q.tail else s.q)

/-- R91: what is left of a Frame at offset 0 of its Segment 0 is the concatenation over its Segments of the message samples
and of the line-coded status bit, `2 × bits(F) × OS` samples in all. -/
def Obligations.WholeFrameIsTheConcatenationOfItsSegments : Prop :=
  ∀ (s : State) (f : Frame), s.curFrame = some f → f.Legal s.build → s.seg = 0 → s.off = 0 →
    s.remaining = f.segs.flatMap (fun g =>
      match g.kind with
      | .message => g.samples
      | .status => linePair s.build s.bi
      | .eob => []) ∧
    s.remaining.length = 2 * f.bits * s.build.os

/-- R88: while a PULL is in progress, from one step to the next, it stays in one slot and one Frame, whatever other commands
fall inside it; each step adds at most one sample to its response. The cursor and the latch of the block stay where the PULL
started (assumption log 17). -/
def Obligations.PullStaysInOneFrame : Prop :=
  ∀ (s t : State) (r r' : PullRun), step s = .next t → s.pull = some r → t.pull = some r' →
    t.slot = s.slot ∧ t.inj = s.inj ∧ t.sf = s.sf ∧ r'.port = r.port ∧ r'.count = r.count ∧
    t.seg = s.seg ∧ t.off = s.off ∧ t.latch = s.latch ∧
    (r'.out = r.out ∨ ∃ v, r'.out = r.out ++ [v])

/-- R89: in a block that is not faulted, a PULL in progress ends with a count of at most N, and with a smaller one only at a
burst boundary: its cursor stood on an EOB, and the block's stands at offset 0 of Segment 0 of the next slot. -/
def Obligations.ShortCountMeansBurstBoundary : Prop :=
  ∀ (s t : State) (r : PullRun), s.Inv → s.faulted = false → step s = .next t → s.pull = some r → t.pull = none →
    ∃ out, newReplies s t =
        [{ port := r.port, code := .ok, data := BitVec.ofNat 32 out.length, samples := out }] ∧
      out.length ≤ r.count ∧
      (out.length < r.count →
        (∃ g, (s.atCursor r.cursor).curSeg = some g ∧ g.kind = .eob) ∧ t.seg = 0 ∧ t.off = 0 ∧
        t.slot.toNat = (s.slot.toNat + 1) % s.fc.toNat)

/-- R92: with no Frame injected and a constant status cell, one cycle from cursor (0, 0, 0) sends the Frames of the
Superframe in slot order, `FC × BPF × OS × 2` samples in all, and ends at cursor (0, 0, 0) with the same Superframe.
Each Frame is fetched here by one PULL larger than it. -/
def Obligations.OneCycleSendsTheSuperframeInOrder : Prop :=
  ∀ (s : State) (n : Nat), s.Inv → s.faulted = false → s.configured = true → s.pull = none →
    s.inj = none → s.q = [] → s.slot = 0 → s.seg = 0 → s.off = 0 → n ≤ 0xFFFFFF →
    (∀ f ∈ s.sf, f.len s.build < n) →
    s.inputs = List.replicate s.sf.length (.command .sample (encode (.pull n))) →
    ∃ k t, Sys2Proof.core.run k s = .next t ∧ t.inputs = [] ∧ t.pull = none ∧
      newReplies s t = s.sf.map (fun f =>
        { port := .sample
          code := .ok
          data := BitVec.ofNat 32 (f.len s.build)
          samples := f.stream s.build s.bi }) ∧
      ((newReplies s t).map fun rep => rep.samples.length).sum = s.fc.toNat * s.build.bpf * s.build.os * 2 ∧
      t.slot = 0 ∧ t.seg = 0 ∧ t.off = 0 ∧ t.inj = none ∧ t.q = [] ∧ t.sf = s.sf ∧ t.bi = s.bi

/-- R93: a Frame injected while the queue is empty is sent exactly once, in place of the first filler slot entered after the
INJECT. The cursor is at the start of a Frame; `d` counts the frame advances to that slot; each of the `m` PULLs
fetches one whole Frame, and every one but the `d`-th sends the Superframe's own. -/
def Obligations.InjectedFrameIsSentOnceInTheNextFillerSlot : Prop :=
  ∀ (s : State) (n d m : Nat) (j : Frame), s.Inv → s.faulted = false → s.configured = true → s.pull = none →
    s.inj = none → s.q = [] → s.seg = 0 → s.off = 0 → n ≤ 0xFFFFFF →
    (∀ f ∈ s.sf, f.len s.build < n) → j.Injectable s.build → j.len s.build < n →
    1 ≤ d → (∃ f, s.sf[(s.slot.toNat + d) % s.fc.toNat]? = some f ∧ f.filler = true) →
    (∀ i f, 1 ≤ i → i < d → s.sf[(s.slot.toNat + i) % s.fc.toNat]? = some f → f.filler = false) →
    s.inputs = .command .inject (encode (.inject j.record)) ::
      List.replicate m (.command .sample (encode (.pull n))) →
    ∃ k t, Sys2Proof.core.run k s = .next t ∧ t.inputs = [] ∧ t.pull = none ∧ t.sf = s.sf ∧
      (newReplies s t).length = m + 1 ∧
      (newReplies s t)[0]? = some { port := .inject, code := .ok, data := 0, samples := [] } ∧
      ∀ i, i < m → ∃ f,
        (i = d → f = j) ∧ (i ≠ d → s.sf[(s.slot.toNat + i) % s.fc.toNat]? = some f) ∧
        (newReplies s t)[i + 1]? = some
          { port := .sample
            code := .ok
            data := BitVec.ofNat 32 (f.len s.build)
            samples := f.stream s.build s.bi }

/-- R93, for any number `k` of Frames queued at the INJECT: the `k` Frames and then `J` are sent in the queue's order, each in
place of one filler slot, so that `J` goes into the `(k+1)`-th filler slot entered after the INJECT; each leaves the queue
there. The cursor is at the start of a Frame, which may be an injected one. `entered i` counts the filler slots among the
first `i` that are entered; each of the `m` PULLs fetches one whole Frame, and in every slot that takes no queued Frame
the Superframe's own. -/
def Obligations.QueuedFramesTakeTheNextFillerSlotsInOrder : Prop :=
  ∀ (s : State) (n m : Nat) (j : Frame), s.Inv → s.faulted = false → s.configured = true → s.pull = none →
    s.seg = 0 → s.off = 0 → n ≤ 0xFFFFFF → (∀ f ∈ s.sf, f.len s.build < n) → 2 * s.build.bpf * s.build.os < n →
    j.Injectable s.build → ¬(1 ≤ s.build.qdepth ∧ s.q.length = s.build.qdepth) →
    s.inputs = .command .inject (encode (.inject j.record)) ::
      List.replicate m (.command .sample (encode (.pull n))) →
    let own (i : Nat) : Option Frame := s.sf[(s.slot.toNat + i) % s.fc.toNat]?
    let isFiller (i : Nat) : Bool := (own i).any Frame.filler
    let entered (i : Nat) : Nat := (List.range i).countP fun e => isFiller (e + 1)
    let reply (f : Frame) : Reply :=
      { port := .sample
        code := .ok
        data := BitVec.ofNat 32 (f.len s.build)
        samples := f.stream s.build s.bi }
    ∃ k t, Sys2Proof.core.run k s = .next t ∧ t.inputs = [] ∧ t.pull = none ∧ t.sf = s.sf ∧
      t.q = (s.q ++ [j]).drop (entered m) ∧
      (newReplies s t).length = m + 1 ∧
      (newReplies s t)[0]? = some { port := .inject, code := .ok, data := 0, samples := [] } ∧
      (0 < m → ∃ f, s.curFrame = some f ∧ (newReplies s t)[1]? = some (reply f)) ∧
      ∀ i, i + 1 < m → ∃ f,
        (isFiller (i + 1) = true ∧ entered i ≤ s.q.length → (s.q ++ [j])[entered i]? = some f) ∧
        (¬(isFiller (i + 1) = true ∧ entered i ≤ s.q.length) → own (i + 1) = some f) ∧
        (newReplies s t)[i + 2]? = some (reply f)

/-! ### Interleaving -/

/-- R63: a step that takes a command runs the instruction its word and payload decode to, on the state with the command taken
off the interleaving and its port noted; nothing else is added around `exec`. -/
def Obligations.StepRunsTheDecodedCommand : Prop :=
  ∀ (s : State) (p : Port) (c : Command) (rest : List Input) (i : Instr),
    TakesCommand s p c rest → decode c.word c.payload = .ok i →
    step s = exec i { s with inputs := rest, port := p }

/-- R48, R49: between two micro-steps of a PULL the block, not faulted, takes the PULL's next micro-step when no agent has anything for it,
at a turn given to the PULL, and at a command that must wait: one on the PULL's own port, or any but an INJECT or a
SET_STATUS. The waiting command stays where it is. That illegal words and a second PULL wait is assumption log 8, and that
the interleaving is data is log 2. -/
def Obligations.CommandsWaitForTheWholePull : Prop :=
  ∀ (s : State) (r : PullRun) (p : Port) (c : Command) (rest : List Input), s.faulted = false → s.pull = some r →
    (s.inputs = [] → step s = pullMicroStep r s) ∧
    (s.inputs = .pullTurn :: rest → step s = pullMicroStep r { s with inputs := rest }) ∧
    (s.inputs = .command p c :: rest →
      (p = r.port ∨
        ((∀ record, decode c.word c.payload ≠ .ok (.inject record)) ∧
          ∀ bit, decode c.word c.payload ≠ .ok (.setStatus bit))) →
      step s = pullMicroStep r s)

/-- R117: with no command issued and no PULL in progress, the block holds its state unchanged. -/
def Obligations.IdleBlockHoldsItsState : Prop :=
  ∀ s : State, s.pull = none → s.inputs = [] → step s = .next s

/-- R50: an INJECT of an injectable Frame that falls before a micro-step that emits a sample has the same effect as one that
falls after it. -/
def Obligations.InjectCommutesWithAnEmittedSample : Prop :=
  ∀ (s : State) (r : PullRun) (g : Segment) (f : Frame) (p : Port) (rest : List Input),
    s.faulted = false → s.configured = true → s.pull = some r → p ≠ r.port → r.out.length + 1 < r.count →
    (s.atCursor r.cursor).curSeg = some g → g.kind ≠ .eob → f.Injectable s.build →
    let c := Input.command p (encode (.inject f.record))
    Sys2Proof.core.run 2 { s with inputs := c :: .pullTurn :: rest } =
      Sys2Proof.core.run 2 { s with inputs := .pullTurn :: c :: rest }

/-- R50: an INJECT that faults inside a PULL, behind any number `k + 1` of its emitted samples, has the same effect as that INJECT
placed before the PULL (assumption log 7). In both runs the INJECT is answered FAULT and the PULL IGNORED with no samples,
and nothing of the block but the fault record changes: the cursor, the latch and the queue are as they were before both
commands. The two states differ only in the port of the command taken last, a field of the model's own. -/
def Obligations.FaultingInjectInsideAPullIsOneBeforeIt : Prop :=
  ∀ (s : State) (n k : Nat) (p : Port) (record : List Byte) (cause : BitVec 8) (rest : List Input),
    s.Inv → s.faulted = false → s.configured = true → s.pull = none → n ≤ 0xFFFFFF → p ≠ .sample →
    k + 1 < n → k + 1 ≤ s.remaining.length → exec (.inject record) s = .next (s.afterFault 0x4 cause) →
    let inject := Input.command p (encode (.inject record))
    let pull := Input.command .sample (encode (.pull n))
    let faulted (last : Port) : State :=
      { s with
        inputs := rest
        port := last
        faulted := true
        faultCause := cause
        faultOpc := 0x4
        replies := s.replies ++
          [{ port := p, code := .fault, data := 0, samples := [] },
            { port := .sample, code := .ignored, data := 0, samples := [] }] }
    Sys2Proof.core.run (k + 3)
      { s with inputs := pull :: (List.replicate k .pullTurn ++ inject :: .pullTurn :: rest) } = .next (faulted p) ∧
    Sys2Proof.core.run 2 { s with inputs := inject :: pull :: rest } = .next (faulted .sample)

/-- R50, R100: a SET_STATUS that falls before the emission of a sample has the same effect as one that falls after it, unless
that sample is the first of a STATUS Segment. -/
def Obligations.SetStatusCommutesInsideASegment : Prop :=
  ∀ (s : State) (r : PullRun) (g : Segment) (bit : Bool) (p : Port) (rest : List Input),
    s.faulted = false → s.pull = some r → p ≠ r.port → r.out.length + 1 < r.count →
    (s.atCursor r.cursor).curSeg = some g → g.kind ≠ .eob → ¬(g.kind = .status ∧ r.cursor.off = 0) →
    let c := Input.command p (encode (.setStatus bit))
    Sys2Proof.core.run 2 { s with inputs := c :: .pullTurn :: rest } =
      Sys2Proof.core.run 2 { s with inputs := .pullTurn :: c :: rest }

/-- R28: a STATUS Segment carries one valid line-code pair, of the bit the status cell held when its first sample was
emitted, however many SET_STATUS commands fall between its samples, and whatever bits they write. The latch and the cursor
of a PULL in progress are its own until it ends (assumption log 17). -/
def Obligations.StatusSegmentCarriesOneLineCodePair : Prop :=
  ∀ (s : State) (r : PullRun) (g : Segment), s.Inv → s.faulted = false → s.pull = some r → r.port ≠ .status →
    (s.atCursor r.cursor).curSeg = some g → g.kind = .status → r.cursor.off = 0 → r.out.length + 2 * s.build.os < r.count →
    s.inputs.head? = some .pullTurn → s.inputs.count .pullTurn = 2 * s.build.os →
    (∀ x ∈ s.inputs, x = .pullTurn ∨ ∃ bit, x = .command .status (encode (.setStatus bit))) →
    ∃ t, Sys2Proof.core.run s.inputs.length s = .next t ∧ t.inputs = [] ∧
      t.pull = some
        { r with
          out := r.out ++ linePair s.build s.bi
          cursor := { seg := r.cursor.seg + 1, off := 0, latch := s.bi } }

/-! ### Rules of the whole machine -/

/-- R17, R18, R20, R21, R23, R24, R29, R30: every step keeps what the spec says of every reachable state. -/
def Obligations.EveryStepKeepsTheInvariant : Prop :=
  ∀ s t : State, s.Inv → step s = .next t → t.Inv

/-- The state after power-on, of any build, meets the invariant. -/
def Obligations.PowerOnMeetsTheInvariant : Prop :=
  State.reset.Inv ∧ ∀ b : Build, (State.powerOn b).Inv

/-- From a state that meets the invariant every step answers a next state: none of the model's stops is ever met. -/
def Obligations.NoStopFromALawfulState : Prop :=
  ∀ s : State, s.Inv → ∃ t, step s = .next t

/-- R6: no step changes a build parameter. -/
def Obligations.NoStepChangesTheBuild : Prop :=
  ∀ s t : State, step s = .next t → t.build = s.build

/-- R24: once accepted, the Superframe does not change until the next reset. -/
def Obligations.SuperframeStaysUntilReset : Prop :=
  ∀ s t : State, s.configured = true → step s = .next t →
    (t.configured = true ∧ t.sf = s.sf ∧ t.fc = s.fc) ∨
    (t.configured = false ∧ ∃ p c rest, TakesCommand s p c rest ∧ decode c.word c.payload = .ok .reset)

/-- R29, R97: a step leaves the queue as it is; or it is the INJECT of an injectable Frame, which joins the tail; or it is a
frame advance, from an EOB into a filler slot, which moves the head into `S.inj`; or it is a RESET, which empties the
queue. In the fault state only the first and the last occur. -/
def Obligations.QueueIsFirstInFirstOut : Prop :=
  ∀ s t : State, step s = .next t →
    t.q = s.q ∨
    (s.faulted = false ∧ ∃ f p c rest, f.Injectable s.build ∧ t.q = s.q ++ [f] ∧ TakesCommand s p c rest ∧
      decode c.word c.payload = .ok (.inject f.record)) ∨
    (s.faulted = false ∧ ∃ f g own, s.q = f :: t.q ∧ t.inj = some f ∧ s.atPull.curSeg = some g ∧ g.kind = .eob ∧
      t.slot = BitVec.ofNat 16 ((s.slot.toNat + 1) % s.fc.toNat) ∧
      s.sf[(s.slot.toNat + 1) % s.fc.toNat]? = some own ∧ own.filler = true) ∨
    (t.q = [] ∧ ∃ p c rest, TakesCommand s p c rest ∧ decode c.word c.payload = .ok .reset)

/-- R127: with no filler Frame in the Superframe, no step but a RESET takes a Frame out of the queue or into `S.inj`. -/
def Obligations.NoFillerMeansNoInjectedFrame : Prop :=
  ∀ s t : State, s.Inv → s.configured = true → (∀ f ∈ s.sf, f.filler = false) → step s = .next t →
    (t.inj = none ∧ s.q <+: t.q) ∨
    ∃ p c rest, TakesCommand s p c rest ∧ decode c.word c.payload = .ok .reset

/-- R64, R69: a step adds at most one response. Its samples are all -1 or +1, and a response with samples is that of a PULL,
with code OK and its count as data: the step is a micro-step of the PULL in progress, or it takes a PULL command, and the
response goes to that PULL's port. -/
def Obligations.ResponsesCarryOnlyLineSamples : Prop :=
  ∀ s t : State, s.Inv → step s = .next t →
    ∃ new, t.replies = s.replies ++ new ∧ new.length ≤ 1 ∧
      ∀ rep ∈ new, (∀ v ∈ rep.samples, v = .minus ∨ v = .plus) ∧
        (rep.samples ≠ [] → rep.code = .ok ∧ rep.data.toNat = rep.samples.length ∧
          ((∃ r, s.pull = some r ∧ rep.port = r.port ∧ step s = pullMicroStep r { s with inputs := t.inputs }) ∨
            ∃ p c rest n, rep.port = p ∧ TakesCommand s p c rest ∧ decode c.word c.payload = .ok (.pull n)))

/-! ### Encoding -/

/-- R54 to R60, R62: every well-formed command decodes from its own words, with every operand. -/
def Obligations.DecodeReadsEveryEncodedCommand : Prop :=
  ∀ i : Instr, i.wellFormed = true → decode (encode i).word (encode i).payload = .ok i

/-- R62: every word and payload that decode to a command are that command's own words, and the command is well formed: each
word has one meaning, and no bit of it is dropped. -/
def Obligations.EncodeWritesEveryDecodedWord : Prop :=
  ∀ (w : Word) (payload : List Byte) (i : Instr), decode w payload = .ok i →
    i.wellFormed = true ∧ encode i = { word := w, payload := payload }

/-- R61: a command is illegal exactly in the four cases of the rule, and then raises ILLEGAL_COMMAND (0x01) with its opcode
field, unless the block is already faulted. -/
def Obligations.IllegalExactlyInTheFourCases : Prop :=
  ∀ (w : Word) (payload : List Byte),
    let opc := (w.extractLsb' 28 4).toNat
    let arg := w.extractLsb' 0 24
    ((∃ e, decode w payload = .error e) ↔
      (7 ≤ opc ∨ w.extractLsb' 24 4 ≠ 0 ∨
        (opc ∈ [0x0, 0x1, 0x2, 0x4] ∧ arg ≠ 0) ∨ (opc = 0x5 ∧ arg.extractLsb' 1 23 ≠ 0) ∨
        (opc = 0x6 ∧ arg.extractLsb' 8 16 ≠ 0) ∨ (opc ∈ [0x0, 0x1, 0x3, 0x5, 0x6] ∧ payload ≠ []))) ∧
    ∀ (s : State) (p : Port) (rest : List Input) (e : Illegal), s.faulted = false →
      TakesCommand s p { word := w, payload := payload } rest → decode w payload = .error e →
      step s =
        .next { s with
          inputs := rest
          port := p
          faulted := true
          faultCause := 0x01
          faultOpc := w.extractLsb' 28 4
          replies := s.replies ++ [{ port := p, code := .fault, data := 0, samples := [] }] }

/-- R60: one word of each row of the opcode map, written out from the map, decodes to that row's command. -/
def Obligations.OpcodeMapWordsDecode : Prop :=
  decode 0x00000000 [] = .ok .nop ∧ decode 0x10000000 [] = .ok .reset ∧
  decode 0x20000000 [0x00, 0x00] = .ok (.configure [0x00, 0x00]) ∧ decode 0x30FFFFFF [] = .ok (.pull 16777215) ∧
  decode 0x40000000 [0x40] = .ok (.inject [0x40]) ∧ decode 0x50000001 [] = .ok (.setStatus true) ∧
  decode 0x60000005 [] = .ok (.readReg .qLevel)

/-- R82: the line code of one bit is OS samples of one polarity and OS of the other, `2 × OS` in all, `+1` first exactly when
the bit differs from LINE_POL; the two bits map to inverse orders. -/
def Obligations.LinePairIsTwoRunsOfOppositePolarity : Prop :=
  ∀ (b : Build) (bit : Bool),
    (bit ≠ b.linePol → linePair b bit = List.replicate b.os .plus ++ List.replicate b.os .minus) ∧
    (bit = b.linePol → linePair b bit = List.replicate b.os .minus ++ List.replicate b.os .plus) ∧
    (linePair b bit).length = 2 * b.os ∧ linePair b (!bit) = (linePair b bit).reverse

/-- R11: the byte form of a sample is 0x01 for +1, 0xFF for -1 and 0x00 for 0, its two's-complement value. -/
def Obligations.SampleBytesAreTwosComplement : Prop :=
  Sample.byte .plus = 0x01 ∧ Sample.byte .minus = 0xFF ∧ Sample.byte .unused = 0x00 ∧
  Sample.value .plus = 1 ∧ Sample.value .minus = -1 ∧ Sample.value .unused = 0 ∧
  ∀ v : Sample, v.byte.toInt = v.value
end

