-- ==== Sys2Proof/Laws/Words.lean ====
section
/-! SUPPORT. Byte order and bit fields: the bytes of a word and the word of four bytes are inverse (R9, R42), and each
field of a command word or an image header reads what the writer put there (R54, R65 to R67). -/

namespace Sys2Proof

@[simp] theorem be32_bytes (w : Word) :
    be32 (w.extractLsb' 24 8) (w.extractLsb' 16 8) (w.extractLsb' 8 8) (w.extractLsb' 0 8) = w := by
  apply BitVec.eq_of_getLsbD_eq
  intro i hi
  simp only [be32, BitVec.getLsbD_append, BitVec.getLsbD_extractLsb']
  interval_cases i <;> simp

@[simp] theorem wordBytes_be32 (b0 b1 b2 b3 : Byte) : wordBytes (be32 b0 b1 b2 b3) = [b0, b1, b2, b3] := by
  have h (lo : Nat) (b : Byte)
      (hb : ∀ i < 8, (be32 b0 b1 b2 b3).getLsbD (lo + i) = b.getLsbD i) :
      (be32 b0 b1 b2 b3).extractLsb' lo 8 = b := by
    apply BitVec.eq_of_getLsbD_eq
    intro i hi
    simpa [BitVec.getLsbD_extractLsb', hi] using hb i hi
  simp only [wordBytes, List.cons.injEq, and_true]
  refine ⟨h 24 b0 ?_, h 16 b1 ?_, h 8 b2 ?_, h 0 b3 ?_⟩ <;> intro i hi <;>
    simp only [be32, BitVec.getLsbD_append] <;> interval_cases i <;> simp

@[simp] theorem wordBytes_length (w : Word) : (wordBytes w).length = 4 := rfl

/-- A command word is its three fields (R54). -/
theorem word_eq_fields (w : Word) : opcField w ++ rsvField w ++ argField w = w := by
  apply BitVec.eq_of_getLsbD_eq
  intro i hi
  simp only [opcField, rsvField, argField, BitVec.getLsbD_append, BitVec.getLsbD_extractLsb']
  interval_cases i <;> simp

section
variable (o r : BitVec 4) (a : BitVec 24)

@[simp] theorem opcField_append : opcField (o ++ r ++ a) = o := by
  apply BitVec.eq_of_getLsbD_eq
  intro i hi
  simp only [opcField, BitVec.getLsbD_append, BitVec.getLsbD_extractLsb']
  interval_cases i <;> simp

@[simp] theorem rsvField_append : rsvField (o ++ r ++ a) = r := by
  apply BitVec.eq_of_getLsbD_eq
  intro i hi
  simp only [rsvField, BitVec.getLsbD_append, BitVec.getLsbD_extractLsb']
  interval_cases i <;> simp

@[simp] theorem argField_append : argField (o ++ r ++ a) = a := by
  apply BitVec.eq_of_getLsbD_eq
  intro i hi
  simp only [argField, BitVec.getLsbD_append, BitVec.getLsbD_extractLsb']
  interval_cases i <;> simp

end

namespace Machine

section
variable (k : BitVec 2) (z : BitVec 14) (n : BitVec 16)

/-- A frame or segment header is its two top bits, its reserved field and its count (R66, R67). -/
theorem header_eq_fields (g : Word) : g.extractLsb' 30 2 ++ headerReserved g ++ g.extractLsb' 0 16 = g := by
  apply BitVec.eq_of_getLsbD_eq
  intro i hi
  simp only [headerReserved, BitVec.getLsbD_append, BitVec.getLsbD_extractLsb']
  interval_cases i <;> simp

@[simp] theorem top_of_header : (k ++ z ++ n).extractLsb' 30 2 = k := by
  apply BitVec.eq_of_getLsbD_eq
  intro i hi
  simp only [BitVec.getLsbD_append, BitVec.getLsbD_extractLsb']
  interval_cases i <;> simp

@[simp] theorem headerReserved_of_header : headerReserved (k ++ z ++ n) = z := by
  apply BitVec.eq_of_getLsbD_eq
  intro i hi
  simp only [headerReserved, BitVec.getLsbD_append, BitVec.getLsbD_extractLsb']
  interval_cases i <;> simp

theorem headerCount_field {v : Nat} (x : BitVec v) : ((x ++ n).extractLsb' 0 16) = n := by
  apply BitVec.eq_of_getLsbD_eq
  intro i hi
  simp only [BitVec.getLsbD_append, BitVec.getLsbD_extractLsb']
  interval_cases i <;> simp

@[simp] theorem headerCount_of_header : headerCount (k ++ z ++ n) = n.toNat := by
  simp only [headerCount]
  rw [headerCount_field]

end

/-- A superframe header is its reserved field and its count (R65). -/
theorem superframeHeader_eq_fields (h : Word) : superframeReserved h ++ h.extractLsb' 0 16 = h := by
  apply BitVec.eq_of_getLsbD_eq
  intro i hi
  simp only [superframeReserved, BitVec.getLsbD_append, BitVec.getLsbD_extractLsb']
  interval_cases i <;> simp

@[simp] theorem superframeReserved_append (z n : BitVec 16) : superframeReserved (z ++ n) = z := by
  apply BitVec.eq_of_getLsbD_eq
  intro i hi
  simp only [superframeReserved, BitVec.getLsbD_append, BitVec.getLsbD_extractLsb']
  interval_cases i <;> simp

@[simp] theorem headerCount_append (z n : BitVec 16) : headerCount (z ++ n) = n.toNat := by
  simp only [headerCount]
  rw [headerCount_field]

end Machine

end Sys2Proof
end

