-- ==== Sys2Proof/Laws/Parser.lean ====
section
/-! SUPPORT. The image parser, one lemma per parser: it accepts exactly what the writer of the image format writes for a
lawful value, and nothing else (R65 to R68, R72, R73, R77). -/

namespace Sys2Proof.Machine

/-! ### The parser's plumbing -/

theorem parsed_bind_ok_iff {α β : Type} {x : Parsed α} {f : α → Parsed β} {v : β} :
    (x >>= f) = .ok v ↔ ∃ a, x = .ok a ∧ f a = .ok v := by
  cases x <;> simp [bind, Except.bind]

@[simp] theorem require_ok_iff {p : Bool} {c : Cause} {u : Unit} : require p c = .ok u ↔ p = true := by
  cases p <;> simp [require]

@[simp] theorem require_true (c : Cause) : require true c = .ok () := rfl

@[simp] theorem require_false (c : Cause) : require false c = .error c := rfl

@[simp] theorem parsed_ok_bind {α β : Type} (a : α) (f : α → Parsed β) :
    ((Except.ok a : Parsed α) >>= f) = f a := rfl

@[simp] theorem parsed_error_bind {α β : Type} (c : Cause) (f : α → Parsed β) :
    ((Except.error c : Parsed α) >>= f) = .error c := rfl

/-! ### Header words -/

@[simp] theorem take32_wordBytes (w : Word) (rest : List Byte) : take32 (wordBytes w ++ rest) = .ok (w, rest) := by
  simp [wordBytes, take32]

theorem take32_ok_iff {bytes rest : List Byte} {w : Word} :
    take32 bytes = .ok (w, rest) ↔ bytes = wordBytes w ++ rest := by
  constructor
  · intro h
    unfold take32 at h
    split at h
    · cases h; simp
    · cases h
  · rintro rfl; simp

/-- A header word is missing exactly when fewer than four bytes are left (R72). -/
theorem take32_error_iff {bytes : List Byte} {c : Cause} :
    take32 bytes = .error c ↔ bytes.length < 4 ∧ c = .imageTruncated := by
  unfold take32
  split
  · simp
  · rename_i h
    match bytes, h with
    | [], _ | [_], _ | [_, _], _ | [_, _, _], _ => simp [eq_comm]
    | a :: b :: c :: d :: r, h => exact absurd rfl (h a b c d r)

theorem headerCount_lt (w : Word) : headerCount w < 65536 :=
  (w.extractLsb' 0 16).isLt

theorem headerKind_some_iff {g : Word} {k : Kind} : headerKind g = some k ↔ g.extractLsb' 30 2 = k.field := by
  unfold headerKind
  generalize g.extractLsb' 30 2 = x
  revert x; cases k <;> decide

@[simp] theorem headerKind_of_header (k : Kind) (z : BitVec 14) (n : BitVec 16) :
    headerKind (k.field ++ z ++ n) = some k := by
  rw [headerKind_some_iff, top_of_header]

/-- A header word with its reserved bits clear is its two top bits and its count. -/
theorem header_of_reserved_zero {w : Word} (h : headerReserved w = 0) :
    w = w.extractLsb' 30 2 ++ (0 : BitVec 14) ++ BitVec.ofNat 16 (headerCount w) := by
  conv => lhs; rw [← header_eq_fields w, h]
  rw [headerCount, BitVec.ofNat_toNat, BitVec.setWidth_eq]

/-! ### Sample blocks (R64, R76) -/

theorem sampleOfByte_eq_some_iff {byte : Byte} {v : Sample} :
    sampleOfByte byte = some v ↔ byte = v.byte ∧ v ≠ .unused := by
  unfold sampleOfByte
  split
  · subst byte; cases v <;> decide
  · split
    · subst byte; cases v <;> decide
    · cases v <;> simp_all [Sample.byte]

theorem sampleOfByte_eq_none_iff {byte : Byte} :
    sampleOfByte byte = none ↔ byte ≠ 0x01 ∧ byte ≠ 0xFF := by
  unfold sampleOfByte
  split
  · simp_all
  · split <;> simp_all

theorem readSamples_ok_iff {bytes : List Byte} {vs : List Sample} :
    readSamples bytes = .ok vs ↔ bytes = vs.map Sample.byte ∧ Sample.unused ∉ vs := by
  induction bytes generalizing vs with
  | nil => cases vs <;> simp [readSamples]
  | cons byte bytes ih =>
    unfold readSamples
    cases hb : sampleOfByte byte with
    | none =>
      simp only [reduceCtorEq, false_iff]
      rintro ⟨h, hu⟩
      cases vs with
      | nil => simp at h
      | cons v vs =>
        simp only [List.map_cons, List.cons.injEq] at h
        have := (sampleOfByte_eq_some_iff (byte := byte) (v := v)).2 ⟨h.1, by rintro rfl; simp at hu⟩
        simp [hb] at this
    | some v =>
      obtain ⟨rfl, hv⟩ := sampleOfByte_eq_some_iff.1 hb
      simp only [parsed_bind_ok_iff, ih]
      constructor
      · rintro ⟨ws, ⟨rfl, hu⟩, h⟩
        cases h
        exact ⟨rfl, by simp [hu, Ne.symm hv]⟩
      · rintro ⟨h, hu⟩
        cases vs with
        | nil => simp at h
        | cons w ws =>
          simp only [List.map_cons, List.cons.injEq] at h
          simp only [List.mem_cons, not_or] at hu
          have : w = v := by revert h; cases w <;> cases v <;> simp_all [Sample.byte]
          subst this
          exact ⟨ws, ⟨h.2, hu.2⟩, rfl⟩

/-- The only fault of a sample block's values is INVALID_SYMBOL (R76). -/
theorem readSamples_error {bytes : List Byte} {c : Cause} (h : readSamples bytes = .error c) : c = .invalidSymbol := by
  induction bytes with
  | nil => simp [readSamples] at h
  | cons byte bytes ih =>
    unfold readSamples at h
    cases hb : sampleOfByte byte with
    | none => simp only [hb, Except.error.injEq] at h; exact h.symm
    | some v =>
      simp only [hb] at h
      cases hr : readSamples bytes with
      | error d => rw [hr] at h ih; exact ih h
      | ok vs => rw [hr] at h; cases h

/-- A sample block with an invalid byte is refused (R76). -/
theorem readSamples_of_invalid {bytes : List Byte} (h : ∃ x ∈ bytes, x ≠ 0x01 ∧ x ≠ 0xFF) :
    readSamples bytes = .error .invalidSymbol := by
  cases hr : readSamples bytes with
  | error c => rw [readSamples_error hr]
  | ok vs =>
    obtain ⟨rfl, hu⟩ := readSamples_ok_iff.1 hr
    obtain ⟨x, hx, h1, h2⟩ := h
    obtain ⟨v, hv, rfl⟩ := List.mem_map.1 hx
    cases v <;> simp_all [Sample.byte]

/-- A sample block is taken exactly when its bytes are there and stand for samples (R76). -/
theorem takeSamples_ok_iff {n : Nat} {bytes rest : List Byte} {vs : List Sample} :
    takeSamples n bytes = .ok (vs, rest) ↔
      bytes = vs.map Sample.byte ++ rest ∧ vs.length = n ∧ Sample.unused ∉ vs := by
  simp only [takeSamples, parsed_bind_ok_iff, require_ok_iff, decide_eq_true_eq, readSamples_ok_iff,
    Except.ok.injEq, Prod.mk.injEq, exists_and_left, exists_const]
  constructor
  · rintro ⟨hn, ws, ⟨ht, hu⟩, rfl, rfl⟩
    refine ⟨by rw [← ht, List.take_append_drop], ?_, hu⟩
    simpa [hn] using (congrArg List.length ht).symm
  · rintro ⟨rfl, rfl, hu⟩
    exact ⟨by simp, vs, ⟨by simp, hu⟩, rfl, by simp⟩

/-! ### Segment records (R67, R73) -/

/-- One segment record: its bytes are a legal Segment's, and an EOB is the last of its Frame (R73). -/
theorem parseSegment_ok_iff {b : Build} {last : Bool} {bytes rest : List Byte} {g : Segment} :
    parseSegment b last bytes = .ok (g, rest) ↔
      bytes = g.record ++ rest ∧ g.Legal b ∧ (g.kind = .eob → last = true) := by
  unfold parseSegment
  simp only [parsed_bind_ok_iff, Prod.exists, take32_ok_iff]
  constructor
  · rintro ⟨w, after, rfl, _, hr, h⟩
    simp only [require_ok_iff, decide_eq_true_eq] at hr
    have hw := header_of_reserved_zero hr
    have hlt := headerCount_lt w
    cases hk : headerKind w with
    | none => simp [hk] at h
    | some k =>
      rw [headerKind_some_iff.1 hk] at hw
      cases k <;> simp only [hk, parsed_bind_ok_iff, require_ok_iff, decide_eq_true_eq, exists_const,
        Except.ok.injEq, Prod.mk.injEq, Prod.exists, takeSamples_ok_iff] at h
      · obtain ⟨hn, rfl, rfl⟩ := h
        refine ⟨?_, by simp [Segment.Legal, hn], by simp⟩
        conv => lhs; rw [hw]
        simp [Segment.record]
      · obtain ⟨hn, vs, after', ⟨rfl, hlen, hu⟩, rfl, rfl⟩ := h
        refine ⟨?_, ?_, by simp⟩
        · conv => lhs; rw [hw]
          simp [Segment.record]
        · simp only [bne_iff_ne, ne_eq] at hn
          exact ⟨by simp, by simp, fun _ => ⟨by simp only; omega, by simp only; omega, hlen, hu⟩⟩
      · obtain ⟨hn, hl, rfl, rfl⟩ := h
        refine ⟨?_, by simp [Segment.Legal, hn], by simp [hl]⟩
        conv => lhs; rw [hw]
        simp [Segment.record]
  · rintro ⟨rfl, hg, hl⟩
    obtain ⟨k, n, vs⟩ := g
    refine ⟨_, _, by rw [Segment.record, List.append_assoc], (), by simp, ?_⟩
    simp only [headerKind_of_header, headerCount_of_header]
    obtain ⟨h1, h2, h3⟩ := hg
    cases k
    · obtain ⟨rfl, rfl⟩ := h1 rfl
      simp
    · obtain ⟨hn1, hn2, hlen, hu⟩ := h3 rfl
      simp only at hn1 hn2 hlen hu
      have : n % 65536 = n := by omega
      simp only [BitVec.toNat_ofNat, Nat.reducePow, this, parsed_bind_ok_iff, require_ok_iff, bne_iff_ne, ne_eq,
        exists_const, Prod.exists, takeSamples_ok_iff]
      exact ⟨by omega, vs, rest, ⟨rfl, hlen, hu⟩, rfl⟩
    · obtain ⟨rfl, rfl⟩ := h2 rfl
      simp [hl rfl]

/-- The segment records of a Frame (the loop of R73). -/
theorem parseSegments_ok_iff {b : Build} {n : Nat} {bytes rest : List Byte} {gs : List Segment} :
    parseSegments b n bytes = .ok (gs, rest) ↔
      bytes = gs.flatMap Segment.record ++ rest ∧ gs.length = n ∧ (∀ g ∈ gs, g.Legal b) ∧
        ∀ g ∈ gs.dropLast, g.kind ≠ .eob := by
  induction n generalizing bytes rest gs with
  | zero =>
    cases gs <;> simp [parseSegments, eq_comm]
  | succ n ih =>
    simp only [parseSegments, parsed_bind_ok_iff, Prod.exists, parseSegment_ok_iff, ih, Except.ok.injEq,
      Prod.mk.injEq]
    constructor
    · rintro ⟨g, after, ⟨rfl, hg, hl⟩, gs', after', ⟨rfl, hlen, hall, hne⟩, rfl, rfl⟩
      refine ⟨by simp, by simp [hlen], by simpa using ⟨hg, hall⟩, ?_⟩
      cases gs' with
      | nil => simp
      | cons g' gs' =>
        simp only [List.dropLast_cons_cons, List.mem_cons, forall_eq_or_imp]
        refine ⟨fun he => ?_, fun x hx => hne x (by simpa using hx)⟩
        have := hl he
        simp at this; simp [this] at hlen
    · rintro ⟨rfl, hlen, hall, hne⟩
      cases gs with
      | nil => simp at hlen
      | cons g gs =>
        simp only [List.length_cons, Nat.add_right_cancel_iff] at hlen
        simp only [List.mem_cons, forall_eq_or_imp] at hall
        refine ⟨g, _, ⟨by simp, hall.1, fun he => ?_⟩, gs, rest, ⟨rfl, hlen, hall.2, ?_⟩, rfl, rfl⟩
        · cases gs with
          | nil => simp_all
          | cons g' gs' => exact absurd he (hne g (by simp))
        · cases gs with
          | nil => simp
          | cons g' gs' => exact fun x hx => hne x (by simp only [List.dropLast_cons_cons]; exact List.mem_cons_of_mem _ hx)

/-! ### Frame records (R66, R73) -/

@[simp] theorem frameHeader_reserved (f : Frame) : headerReserved f.header = 0 := by
  rw [Frame.header, headerReserved_of_header]

@[simp] theorem frameHeader_filler (f : Frame) : f.header[31] = f.filler := by
  have h : f.header.getLsbD 31 = f.filler := by
    simp only [Frame.header, BitVec.getLsbD_append]
    simp
  simpa using h

@[simp] theorem frameHeader_ephemeral (f : Frame) : f.header[30] = f.ephemeral := by
  have h : f.header.getLsbD 30 = f.ephemeral := by
    simp only [Frame.header, BitVec.getLsbD_append]
    simp
  simpa using h

@[simp] theorem frameHeader_count (f : Frame) : headerCount f.header = f.segs.length % 65536 := by
  rw [Frame.header, headerCount_of_header]; simp

/-- A Frame's record starts with the header word whose fields the Frame was read from (R66). -/
theorem frameHeader_of_fields {w : Word} {gs : List Segment} (hr : headerReserved w = 0)
    (hc : gs.length = headerCount w) :
    ({ filler := w.getLsbD 31, ephemeral := w.getLsbD 30, segs := gs } : Frame).header = w := by
  conv => rhs; rw [header_of_reserved_zero hr]
  simp only [Frame.header, hc]
  congr 2
  apply BitVec.eq_of_getLsbD_eq
  intro i hi
  simp only [BitVec.getLsbD_append, BitVec.getLsbD_extractLsb']
  interval_cases i <;> simp

theorem endsInEob_ne_nil {gs : List Segment} (h : endsInEob gs = true) : gs ≠ [] := by
  rintro rfl; simp [endsInEob] at h

/-- `ParseFrame` accepts exactly the records of legal Frames (R73). -/
theorem parseFrame_ok_iff {b : Build} {bytes rest : List Byte} {f : Frame} :
    parseFrame b bytes = .ok (f, rest) ↔ bytes = f.record ++ rest ∧ f.Legal b := by
  have hmax := b.maxSegs_range
  simp only [parseFrame, parsed_bind_ok_iff, Prod.exists, take32_ok_iff, require_ok_iff, exists_const,
    parseSegments_ok_iff, Except.ok.injEq, Prod.mk.injEq, decide_eq_true_eq, bne_iff_ne, ne_eq]
  constructor
  · rintro ⟨w, after, rfl, hr, hn0, hn, gs, after', ⟨rfl, hlen, hall, hne⟩, he, rfl, rfl⟩
    refine ⟨by rw [Frame.record, frameHeader_of_fields hr hlen]; simp, ?_, ⟨he, hne⟩, hall⟩
    simp only; omega
  · rintro ⟨rfl, hlen, ⟨he, hne⟩, hall⟩
    have h0 := List.length_pos_of_ne_nil (endsInEob_ne_nil he)
    have hm : f.segs.length % 65536 = f.segs.length := Nat.mod_eq_of_lt (by omega)
    refine ⟨f.header, _, by rw [Frame.record, List.append_assoc], by simp, ?_, ?_, f.segs, rest, ⟨rfl, ?_, hall, hne⟩,
      he, by simp, rfl⟩ <;> simp only [frameHeader_count, hm]
    · omega
    · exact hlen

/-- The frame records of a Superframe, with the frame store's capacity (the loop of R77). -/
theorem parseFrames_ok_iff {b : Build} {n store : Nat} {bytes rest : List Byte} {fs : List Frame} :
    parseFrames b n store bytes = .ok (fs, rest) ↔
      bytes = fs.flatMap Frame.record ++ rest ∧ fs.length = n ∧ (∀ f ∈ fs, f.Legal b ∧ f.ephemeral = false) ∧
        (fs ≠ [] → store + (fs.map Frame.storeBytes).sum ≤ b.frameStoreBytes) := by
  induction n generalizing store bytes rest fs with
  | zero =>
    cases fs <;> simp [parseFrames, eq_comm (a := bytes)]
  | succ n ih =>
    simp only [parseFrames, parsed_bind_ok_iff, Prod.exists, parseFrame_ok_iff, require_ok_iff, exists_const, ih,
      Except.ok.injEq, Prod.mk.injEq, decide_eq_true_eq, Bool.not_eq_true']
    constructor
    · rintro ⟨f, after, ⟨rfl, hf⟩, he, hs, fs', after', ⟨rfl, hlen, hall, hsum⟩, rfl, rfl⟩
      refine ⟨by simp, by simp [hlen], by simpa using ⟨⟨hf, he⟩, hall⟩, fun _ => ?_⟩
      cases fs' with
      | nil => simpa using hs
      | cons f' fs' => simpa [Nat.add_assoc] using hsum (by simp)
    · rintro ⟨rfl, hlen, hall, hsum⟩
      cases fs with
      | nil => simp at hlen
      | cons f fs =>
        simp only [List.length_cons, Nat.add_right_cancel_iff] at hlen
        simp only [List.mem_cons, forall_eq_or_imp] at hall
        have hs := hsum (by simp)
        simp only [List.map_cons, List.sum_cons] at hs
        refine ⟨f, _, ⟨by rw [List.flatMap_cons, List.append_assoc], hall.1.1⟩, hall.1.2, by omega, fs, rest,
          ⟨rfl, hlen, hall.2, fun _ => by omega⟩, rfl, rfl⟩

/-! ### Whole payloads (R77, R94) -/

/-- The sample length of a Frame is `2 × bits × OS` (R23). -/
theorem frame_len_eq (b : Build) (f : Frame) : f.len b = 2 * f.bits * b.os := by
  obtain ⟨_, _, gs⟩ := f
  simp only [Frame.len, Frame.bits]
  induction gs with
  | nil => simp
  | cons g gs ih => simp only [List.map_cons, List.sum_cons, ih, Segment.len]; ring

/-- The cycle-length law in its bit form (R78). -/
theorem cycleLawHolds_iff {b : Build} {fs : List Frame} :
    cycleLawHolds b fs = true ↔ (fs.map Frame.bits).sum = fs.length * b.bpf := by
  have hos := b.os_range.1
  have h : (fs.map (Frame.len b)).sum = (fs.map Frame.bits).sum * (2 * b.os) := by
    induction fs with
    | nil => simp
    | cons f fs ih => simp only [List.map_cons, List.sum_cons, ih, frame_len_eq]; ring
  rw [cycleLawHolds, decide_eq_true_eq, h,
    show fs.length * b.bpf * b.os * 2 = fs.length * b.bpf * (2 * b.os) by ring]
  exact Nat.mul_left_inj (by omega)

theorem fillersFit_iff {b : Build} {fs : List Frame} :
    fillersFit b fs = true ↔ ∀ f ∈ fs, f.filler = true → f.bits = b.bpf := by
  simp [fillersFit, Decidable.or_iff_not_imp_left]

/-- `ParseSuperframe` accepts exactly the images of lawful Superframes (R77). -/
theorem parseSuperframe_ok_iff {b : Build} {bytes : List Byte} {fs : List Frame} :
    parseSuperframe b bytes = .ok fs ↔ bytes = superframeImage fs ∧ LawfulSuperframe b fs := by
  have hmax := b.maxFrames_range
  simp only [parseSuperframe, parsed_bind_ok_iff, Prod.exists, take32_ok_iff, require_ok_iff, exists_const,
    parseFrames_ok_iff, Except.ok.injEq, Bool.and_eq_true, bne_iff_ne, ne_eq, decide_eq_true_eq, cycleLawHolds_iff,
    fillersFit_iff]
  constructor
  · rintro ⟨w, after, rfl, hr, ⟨hn0, hn⟩, fs', after', ⟨rfl, hlen, hall, hsum⟩, rfl, hc, hf, rfl⟩
    have hne : fs' ≠ [] := by rintro rfl; exact hn0 (by simpa using hlen.symm)
    refine ⟨?_, ⟨⟨by omega, by omega⟩, hall, by simpa using hsum hne⟩, hc, hf⟩
    rw [superframeImage, hlen]
    conv => lhs; rw [← superframeHeader_eq_fields w, hr]
    rw [headerCount, BitVec.ofNat_toNat, BitVec.setWidth_eq, List.append_nil]
  · rintro ⟨rfl, ⟨⟨h1, h2⟩, hall, hsum⟩, hc, hf⟩
    have hm : fs.length % 65536 = fs.length := Nat.mod_eq_of_lt (by omega)
    refine ⟨_, _, rfl, by simp, ?_, fs, [], ⟨by simp, by simp [hm], hall, fun _ => by simpa using hsum⟩, rfl, hc, hf, rfl⟩
    simp only [headerCount_append, BitVec.toNat_ofNat]
    rw [hm]; omega

/-- An INJECT payload is accepted exactly when it is the record of an injectable Frame (R94, R95). -/
theorem parseInject_ok_iff {b : Build} {bytes : List Byte} {f : Frame} :
    parseInject b bytes = .ok f ↔ bytes = f.record ∧ f.Injectable b := by
  simp only [parseInject, parsed_bind_ok_iff, Prod.exists, parseFrame_ok_iff, require_ok_iff, exists_const,
    Except.ok.injEq, Bool.and_eq_true, Bool.not_eq_true', decide_eq_true_eq]
  constructor
  · rintro ⟨f', after, ⟨rfl, hf⟩, rfl, ⟨he, hn⟩, hb, rfl⟩
    exact ⟨by simp, hf, he, hn, hb⟩
  · rintro ⟨rfl, hf, he, hn, hb⟩
    exact ⟨f, [], ⟨by simp, hf⟩, rfl, ⟨he, hn⟩, hb, rfl⟩

end Sys2Proof.Machine
end

