-- ==== Sys2Proof/Laws/PerInstr.lean ====
section
/-! SUPPORT. Statements about every command as syntax, one lemma per constructor of `Instr`: the fields of its command word,
and the row of the opcode map (spec/30_encoding.md R60) that its word matches. -/

namespace Sys2Proof.Laws

/-- The fields of the command word (R54): the opcode of R60, RSV = 0, and the operand of R56 to R59. -/
def EncodeFields.Statement (i : Instr) : Prop :=
  opcField (encode i).word = i.opcode ∧ rsvField (encode i).word = 0 ∧ argField (encode i).word = i.argument ∧
    (encode i).payload = i.payload

theorem EncodeFields.of_instr (i : Instr) : EncodeFields.Statement i := by
  simp [EncodeFields.Statement, encode]

theorem EncodeFields.nop : EncodeFields.Statement .nop := of_instr _
theorem EncodeFields.reset : EncodeFields.Statement .reset := of_instr _
theorem EncodeFields.configure (image : List Byte) : EncodeFields.Statement (.configure image) := of_instr _
theorem EncodeFields.pull (count : Nat) : EncodeFields.Statement (.pull count) := of_instr _
theorem EncodeFields.inject (record : List Byte) : EncodeFields.Statement (.inject record) := of_instr _
theorem EncodeFields.setStatus (bit : Bool) : EncodeFields.Statement (.setStatus bit) := of_instr _
theorem EncodeFields.readReg (reg : Reg) : EncodeFields.Statement (.readReg reg) := of_instr _

/-- The fixed bits of a command's row (R60). -/
def rowMask : Instr → Word
  | .nop | .reset | .configure _ | .inject _ => 0xFFFFFFFF
  | .pull _ => 0xFF000000
  | .setStatus _ => 0xFFFFFFFE
  | .readReg _ => 0xFFFFFF00

/-- The values of the fixed bits of a command's row (R60). -/
def rowMatch : Instr → Word
  | .nop => 0x00000000
  | .reset => 0x10000000
  | .configure _ => 0x20000000
  | .pull _ => 0x30000000
  | .inject _ => 0x40000000
  | .setStatus _ => 0x50000000
  | .readReg _ => 0x60000000

/-- The word of a well-formed command has the fixed bits of its row (R60). -/
def MatchesRow.Statement (i : Instr) : Prop :=
  i.wellFormed = true → (encode i).word &&& rowMask i = rowMatch i

theorem MatchesRow.nop : MatchesRow.Statement .nop := fun _ => rfl
theorem MatchesRow.reset : MatchesRow.Statement .reset := fun _ => rfl
theorem MatchesRow.configure (image : List Byte) : MatchesRow.Statement (.configure image) := by
  intro _
  simp only [encode, Instr.opcode, Instr.argument, rowMask, rowMatch]
  decide

theorem MatchesRow.pull (count : Nat) : MatchesRow.Statement (.pull count) := by
  intro _
  simp only [encode, Instr.opcode, Instr.argument, rowMask, rowMatch]
  generalize BitVec.ofNat 24 count = a
  apply BitVec.eq_of_getLsbD_eq
  intro i hi
  simp only [BitVec.getLsbD_and, BitVec.getLsbD_append]
  interval_cases i <;> simp

theorem MatchesRow.inject (record : List Byte) : MatchesRow.Statement (.inject record) := by
  intro _
  simp only [encode, Instr.opcode, Instr.argument, rowMask, rowMatch]
  decide

theorem MatchesRow.setStatus (bit : Bool) : MatchesRow.Statement (.setStatus bit) := by
  intro _
  cases bit <;> rfl

theorem MatchesRow.readReg (reg : Reg) : MatchesRow.Statement (.readReg reg) := by
  intro h
  cases reg with
  | reserved n =>
    simp only [Instr.wellFormed, Reg.wellFormed, decide_eq_true_eq] at h
    obtain ⟨h1, h2⟩ := h
    interval_cases n <;> rfl
  | _ => rfl

end Sys2Proof.Laws
end

