-- ==== Sys2Proof/Laws/State.lean ====
section
/-! SUPPORT. What every update of the state leaves in every field, one lemma per field per update, so that no later proof
unfolds a record update. -/

namespace Sys2Proof.Machine

variable (s : State)

/-! ### After a response -/

@[simp] theorem State.respond_configured (code : Code) (data : BitVec 32) : (s.respond code data).configured = s.configured := rfl
@[simp] theorem State.respond_faulted (code : Code) (data : BitVec 32) : (s.respond code data).faulted = s.faulted := rfl
@[simp] theorem State.respond_faultCause (code : Code) (data : BitVec 32) : (s.respond code data).faultCause = s.faultCause := rfl
@[simp] theorem State.respond_faultOpc (code : Code) (data : BitVec 32) : (s.respond code data).faultOpc = s.faultOpc := rfl
@[simp] theorem State.respond_fc (code : Code) (data : BitVec 32) : (s.respond code data).fc = s.fc := rfl
@[simp] theorem State.respond_sf (code : Code) (data : BitVec 32) : (s.respond code data).sf = s.sf := rfl
@[simp] theorem State.respond_slot (code : Code) (data : BitVec 32) : (s.respond code data).slot = s.slot := rfl
@[simp] theorem State.respond_seg (code : Code) (data : BitVec 32) : (s.respond code data).seg = s.seg := rfl
@[simp] theorem State.respond_off (code : Code) (data : BitVec 32) : (s.respond code data).off = s.off := rfl
@[simp] theorem State.respond_inj (code : Code) (data : BitVec 32) : (s.respond code data).inj = s.inj := rfl
@[simp] theorem State.respond_q (code : Code) (data : BitVec 32) : (s.respond code data).q = s.q := rfl
@[simp] theorem State.respond_bi (code : Code) (data : BitVec 32) : (s.respond code data).bi = s.bi := rfl
@[simp] theorem State.respond_latch (code : Code) (data : BitVec 32) : (s.respond code data).latch = s.latch := rfl
@[simp] theorem State.respond_build (code : Code) (data : BitVec 32) : (s.respond code data).build = s.build := rfl
@[simp] theorem State.respond_pull (code : Code) (data : BitVec 32) : (s.respond code data).pull = s.pull := rfl
@[simp] theorem State.respond_inputs (code : Code) (data : BitVec 32) : (s.respond code data).inputs = s.inputs := rfl
@[simp] theorem State.respond_port (code : Code) (data : BitVec 32) : (s.respond code data).port = s.port := rfl
@[simp] theorem State.respond_replies (code : Code) (data : BitVec 32) : (s.respond code data).replies = s.replies ++ [{ port := s.port, code := code, data := data, samples := [] }] := rfl

/-! ### After fault entry -/

@[simp] theorem State.raise_configured (opc : BitVec 4) (cause : Cause) : (s.raise opc cause).configured = s.configured := rfl
@[simp] theorem State.raise_faulted (opc : BitVec 4) (cause : Cause) : (s.raise opc cause).faulted = true := rfl
@[simp] theorem State.raise_faultCause (opc : BitVec 4) (cause : Cause) : (s.raise opc cause).faultCause = cause.code := rfl
@[simp] theorem State.raise_faultOpc (opc : BitVec 4) (cause : Cause) : (s.raise opc cause).faultOpc = opc := rfl
@[simp] theorem State.raise_fc (opc : BitVec 4) (cause : Cause) : (s.raise opc cause).fc = s.fc := rfl
@[simp] theorem State.raise_sf (opc : BitVec 4) (cause : Cause) : (s.raise opc cause).sf = s.sf := rfl
@[simp] theorem State.raise_slot (opc : BitVec 4) (cause : Cause) : (s.raise opc cause).slot = s.slot := rfl
@[simp] theorem State.raise_seg (opc : BitVec 4) (cause : Cause) : (s.raise opc cause).seg = s.seg := rfl
@[simp] theorem State.raise_off (opc : BitVec 4) (cause : Cause) : (s.raise opc cause).off = s.off := rfl
@[simp] theorem State.raise_inj (opc : BitVec 4) (cause : Cause) : (s.raise opc cause).inj = s.inj := rfl
@[simp] theorem State.raise_q (opc : BitVec 4) (cause : Cause) : (s.raise opc cause).q = s.q := rfl
@[simp] theorem State.raise_bi (opc : BitVec 4) (cause : Cause) : (s.raise opc cause).bi = s.bi := rfl
@[simp] theorem State.raise_latch (opc : BitVec 4) (cause : Cause) : (s.raise opc cause).latch = s.latch := rfl
@[simp] theorem State.raise_build (opc : BitVec 4) (cause : Cause) : (s.raise opc cause).build = s.build := rfl
@[simp] theorem State.raise_pull (opc : BitVec 4) (cause : Cause) : (s.raise opc cause).pull = s.pull := rfl
@[simp] theorem State.raise_inputs (opc : BitVec 4) (cause : Cause) : (s.raise opc cause).inputs = s.inputs := rfl
@[simp] theorem State.raise_port (opc : BitVec 4) (cause : Cause) : (s.raise opc cause).port = s.port := rfl
@[simp] theorem State.raise_replies (opc : BitVec 4) (cause : Cause) : (s.raise opc cause).replies = s.replies ++ [{ port := s.port, code := .fault, data := 0, samples := [] }] := rfl

/-! ### After reset -/

@[simp] theorem State.resetBlock_configured : (s.resetBlock).configured = false := rfl
@[simp] theorem State.resetBlock_faulted : (s.resetBlock).faulted = false := rfl
@[simp] theorem State.resetBlock_faultCause : (s.resetBlock).faultCause = 0 := rfl
@[simp] theorem State.resetBlock_faultOpc : (s.resetBlock).faultOpc = 0 := rfl
@[simp] theorem State.resetBlock_fc : (s.resetBlock).fc = 0 := rfl
@[simp] theorem State.resetBlock_sf : (s.resetBlock).sf = [] := rfl
@[simp] theorem State.resetBlock_slot : (s.resetBlock).slot = 0 := rfl
@[simp] theorem State.resetBlock_seg : (s.resetBlock).seg = 0 := rfl
@[simp] theorem State.resetBlock_off : (s.resetBlock).off = 0 := rfl
@[simp] theorem State.resetBlock_inj : (s.resetBlock).inj = none := rfl
@[simp] theorem State.resetBlock_q : (s.resetBlock).q = [] := rfl
@[simp] theorem State.resetBlock_bi : (s.resetBlock).bi = s.build.biReset := rfl
@[simp] theorem State.resetBlock_latch : (s.resetBlock).latch = false := rfl
@[simp] theorem State.resetBlock_build : (s.resetBlock).build = s.build := rfl
@[simp] theorem State.resetBlock_pull : (s.resetBlock).pull = none := rfl
@[simp] theorem State.resetBlock_inputs : (s.resetBlock).inputs = s.inputs := rfl
@[simp] theorem State.resetBlock_port : (s.resetBlock).port = s.port := rfl
@[simp] theorem State.resetBlock_replies : (s.resetBlock).replies = s.replies := rfl

/-! ### After taking a command off the interleaving -/

@[simp] theorem State.accept_configured (p : Port) (rest : List Input) : (s.accept p rest).configured = s.configured := rfl
@[simp] theorem State.accept_faulted (p : Port) (rest : List Input) : (s.accept p rest).faulted = s.faulted := rfl
@[simp] theorem State.accept_faultCause (p : Port) (rest : List Input) : (s.accept p rest).faultCause = s.faultCause := rfl
@[simp] theorem State.accept_faultOpc (p : Port) (rest : List Input) : (s.accept p rest).faultOpc = s.faultOpc := rfl
@[simp] theorem State.accept_fc (p : Port) (rest : List Input) : (s.accept p rest).fc = s.fc := rfl
@[simp] theorem State.accept_sf (p : Port) (rest : List Input) : (s.accept p rest).sf = s.sf := rfl
@[simp] theorem State.accept_slot (p : Port) (rest : List Input) : (s.accept p rest).slot = s.slot := rfl
@[simp] theorem State.accept_seg (p : Port) (rest : List Input) : (s.accept p rest).seg = s.seg := rfl
@[simp] theorem State.accept_off (p : Port) (rest : List Input) : (s.accept p rest).off = s.off := rfl
@[simp] theorem State.accept_inj (p : Port) (rest : List Input) : (s.accept p rest).inj = s.inj := rfl
@[simp] theorem State.accept_q (p : Port) (rest : List Input) : (s.accept p rest).q = s.q := rfl
@[simp] theorem State.accept_bi (p : Port) (rest : List Input) : (s.accept p rest).bi = s.bi := rfl
@[simp] theorem State.accept_latch (p : Port) (rest : List Input) : (s.accept p rest).latch = s.latch := rfl
@[simp] theorem State.accept_build (p : Port) (rest : List Input) : (s.accept p rest).build = s.build := rfl
@[simp] theorem State.accept_pull (p : Port) (rest : List Input) : (s.accept p rest).pull = s.pull := rfl
@[simp] theorem State.accept_inputs (p : Port) (rest : List Input) : (s.accept p rest).inputs = rest := rfl
@[simp] theorem State.accept_port (p : Port) (rest : List Input) : (s.accept p rest).port = p := rfl
@[simp] theorem State.accept_replies (p : Port) (rest : List Input) : (s.accept p rest).replies = s.replies := rfl

/-! ### After moving on in the interleaving -/

@[simp] theorem State.withInputs_configured (rest : List Input) : (s.withInputs rest).configured = s.configured := rfl
@[simp] theorem State.withInputs_faulted (rest : List Input) : (s.withInputs rest).faulted = s.faulted := rfl
@[simp] theorem State.withInputs_faultCause (rest : List Input) : (s.withInputs rest).faultCause = s.faultCause := rfl
@[simp] theorem State.withInputs_faultOpc (rest : List Input) : (s.withInputs rest).faultOpc = s.faultOpc := rfl
@[simp] theorem State.withInputs_fc (rest : List Input) : (s.withInputs rest).fc = s.fc := rfl
@[simp] theorem State.withInputs_sf (rest : List Input) : (s.withInputs rest).sf = s.sf := rfl
@[simp] theorem State.withInputs_slot (rest : List Input) : (s.withInputs rest).slot = s.slot := rfl
@[simp] theorem State.withInputs_seg (rest : List Input) : (s.withInputs rest).seg = s.seg := rfl
@[simp] theorem State.withInputs_off (rest : List Input) : (s.withInputs rest).off = s.off := rfl
@[simp] theorem State.withInputs_inj (rest : List Input) : (s.withInputs rest).inj = s.inj := rfl
@[simp] theorem State.withInputs_q (rest : List Input) : (s.withInputs rest).q = s.q := rfl
@[simp] theorem State.withInputs_bi (rest : List Input) : (s.withInputs rest).bi = s.bi := rfl
@[simp] theorem State.withInputs_latch (rest : List Input) : (s.withInputs rest).latch = s.latch := rfl
@[simp] theorem State.withInputs_build (rest : List Input) : (s.withInputs rest).build = s.build := rfl
@[simp] theorem State.withInputs_pull (rest : List Input) : (s.withInputs rest).pull = s.pull := rfl
@[simp] theorem State.withInputs_inputs (rest : List Input) : (s.withInputs rest).inputs = rest := rfl
@[simp] theorem State.withInputs_port (rest : List Input) : (s.withInputs rest).port = s.port := rfl
@[simp] theorem State.withInputs_replies (rest : List Input) : (s.withInputs rest).replies = s.replies := rfl

/-! ### After loading a Superframe -/

@[simp] theorem State.loadSuperframe_configured (fs : List Frame) : (s.loadSuperframe fs).configured = true := rfl
@[simp] theorem State.loadSuperframe_faulted (fs : List Frame) : (s.loadSuperframe fs).faulted = s.faulted := rfl
@[simp] theorem State.loadSuperframe_faultCause (fs : List Frame) : (s.loadSuperframe fs).faultCause = s.faultCause := rfl
@[simp] theorem State.loadSuperframe_faultOpc (fs : List Frame) : (s.loadSuperframe fs).faultOpc = s.faultOpc := rfl
@[simp] theorem State.loadSuperframe_fc (fs : List Frame) : (s.loadSuperframe fs).fc = BitVec.ofNat 16 fs.length := rfl
@[simp] theorem State.loadSuperframe_sf (fs : List Frame) : (s.loadSuperframe fs).sf = fs := rfl
@[simp] theorem State.loadSuperframe_slot (fs : List Frame) : (s.loadSuperframe fs).slot = 0 := rfl
@[simp] theorem State.loadSuperframe_seg (fs : List Frame) : (s.loadSuperframe fs).seg = 0 := rfl
@[simp] theorem State.loadSuperframe_off (fs : List Frame) : (s.loadSuperframe fs).off = 0 := rfl
@[simp] theorem State.loadSuperframe_inj (fs : List Frame) : (s.loadSuperframe fs).inj = none := rfl
@[simp] theorem State.loadSuperframe_q (fs : List Frame) : (s.loadSuperframe fs).q = s.q := rfl
@[simp] theorem State.loadSuperframe_bi (fs : List Frame) : (s.loadSuperframe fs).bi = s.bi := rfl
@[simp] theorem State.loadSuperframe_latch (fs : List Frame) : (s.loadSuperframe fs).latch = s.latch := rfl
@[simp] theorem State.loadSuperframe_build (fs : List Frame) : (s.loadSuperframe fs).build = s.build := rfl
@[simp] theorem State.loadSuperframe_pull (fs : List Frame) : (s.loadSuperframe fs).pull = s.pull := rfl
@[simp] theorem State.loadSuperframe_inputs (fs : List Frame) : (s.loadSuperframe fs).inputs = s.inputs := rfl
@[simp] theorem State.loadSuperframe_port (fs : List Frame) : (s.loadSuperframe fs).port = s.port := rfl
@[simp] theorem State.loadSuperframe_replies (fs : List Frame) : (s.loadSuperframe fs).replies = s.replies := rfl

/-! ### After an enqueue -/

@[simp] theorem State.enqueue_configured (f : Frame) : (s.enqueue f).configured = s.configured := rfl
@[simp] theorem State.enqueue_faulted (f : Frame) : (s.enqueue f).faulted = s.faulted := rfl
@[simp] theorem State.enqueue_faultCause (f : Frame) : (s.enqueue f).faultCause = s.faultCause := rfl
@[simp] theorem State.enqueue_faultOpc (f : Frame) : (s.enqueue f).faultOpc = s.faultOpc := rfl
@[simp] theorem State.enqueue_fc (f : Frame) : (s.enqueue f).fc = s.fc := rfl
@[simp] theorem State.enqueue_sf (f : Frame) : (s.enqueue f).sf = s.sf := rfl
@[simp] theorem State.enqueue_slot (f : Frame) : (s.enqueue f).slot = s.slot := rfl
@[simp] theorem State.enqueue_seg (f : Frame) : (s.enqueue f).seg = s.seg := rfl
@[simp] theorem State.enqueue_off (f : Frame) : (s.enqueue f).off = s.off := rfl
@[simp] theorem State.enqueue_inj (f : Frame) : (s.enqueue f).inj = s.inj := rfl
@[simp] theorem State.enqueue_q (f : Frame) : (s.enqueue f).q = s.q ++ [f] := rfl
@[simp] theorem State.enqueue_bi (f : Frame) : (s.enqueue f).bi = s.bi := rfl
@[simp] theorem State.enqueue_latch (f : Frame) : (s.enqueue f).latch = s.latch := rfl
@[simp] theorem State.enqueue_build (f : Frame) : (s.enqueue f).build = s.build := rfl
@[simp] theorem State.enqueue_pull (f : Frame) : (s.enqueue f).pull = s.pull := rfl
@[simp] theorem State.enqueue_inputs (f : Frame) : (s.enqueue f).inputs = s.inputs := rfl
@[simp] theorem State.enqueue_port (f : Frame) : (s.enqueue f).port = s.port := rfl
@[simp] theorem State.enqueue_replies (f : Frame) : (s.enqueue f).replies = s.replies := rfl

/-! ### After a write of the status cell -/

@[simp] theorem State.writeStatusCell_configured (bit : Bool) : (s.writeStatusCell bit).configured = s.configured := rfl
@[simp] theorem State.writeStatusCell_faulted (bit : Bool) : (s.writeStatusCell bit).faulted = s.faulted := rfl
@[simp] theorem State.writeStatusCell_faultCause (bit : Bool) : (s.writeStatusCell bit).faultCause = s.faultCause := rfl
@[simp] theorem State.writeStatusCell_faultOpc (bit : Bool) : (s.writeStatusCell bit).faultOpc = s.faultOpc := rfl
@[simp] theorem State.writeStatusCell_fc (bit : Bool) : (s.writeStatusCell bit).fc = s.fc := rfl
@[simp] theorem State.writeStatusCell_sf (bit : Bool) : (s.writeStatusCell bit).sf = s.sf := rfl
@[simp] theorem State.writeStatusCell_slot (bit : Bool) : (s.writeStatusCell bit).slot = s.slot := rfl
@[simp] theorem State.writeStatusCell_seg (bit : Bool) : (s.writeStatusCell bit).seg = s.seg := rfl
@[simp] theorem State.writeStatusCell_off (bit : Bool) : (s.writeStatusCell bit).off = s.off := rfl
@[simp] theorem State.writeStatusCell_inj (bit : Bool) : (s.writeStatusCell bit).inj = s.inj := rfl
@[simp] theorem State.writeStatusCell_q (bit : Bool) : (s.writeStatusCell bit).q = s.q := rfl
@[simp] theorem State.writeStatusCell_bi (bit : Bool) : (s.writeStatusCell bit).bi = bit := rfl
@[simp] theorem State.writeStatusCell_latch (bit : Bool) : (s.writeStatusCell bit).latch = s.latch := rfl
@[simp] theorem State.writeStatusCell_build (bit : Bool) : (s.writeStatusCell bit).build = s.build := rfl
@[simp] theorem State.writeStatusCell_pull (bit : Bool) : (s.writeStatusCell bit).pull = s.pull := rfl
@[simp] theorem State.writeStatusCell_inputs (bit : Bool) : (s.writeStatusCell bit).inputs = s.inputs := rfl
@[simp] theorem State.writeStatusCell_port (bit : Bool) : (s.writeStatusCell bit).port = s.port := rfl
@[simp] theorem State.writeStatusCell_replies (bit : Bool) : (s.writeStatusCell bit).replies = s.replies := rfl

/-! ### After the end of a PULL -/

@[simp] theorem State.finishPull_configured (r : PullRun) : (s.finishPull r).configured = s.configured := rfl
@[simp] theorem State.finishPull_faulted (r : PullRun) : (s.finishPull r).faulted = s.faulted := rfl
@[simp] theorem State.finishPull_faultCause (r : PullRun) : (s.finishPull r).faultCause = s.faultCause := rfl
@[simp] theorem State.finishPull_faultOpc (r : PullRun) : (s.finishPull r).faultOpc = s.faultOpc := rfl
@[simp] theorem State.finishPull_fc (r : PullRun) : (s.finishPull r).fc = s.fc := rfl
@[simp] theorem State.finishPull_sf (r : PullRun) : (s.finishPull r).sf = s.sf := rfl
@[simp] theorem State.finishPull_slot (r : PullRun) : (s.finishPull r).slot = s.slot := rfl
@[simp] theorem State.finishPull_seg (r : PullRun) : (s.finishPull r).seg = s.seg := rfl
@[simp] theorem State.finishPull_off (r : PullRun) : (s.finishPull r).off = s.off := rfl
@[simp] theorem State.finishPull_inj (r : PullRun) : (s.finishPull r).inj = s.inj := rfl
@[simp] theorem State.finishPull_q (r : PullRun) : (s.finishPull r).q = s.q := rfl
@[simp] theorem State.finishPull_bi (r : PullRun) : (s.finishPull r).bi = s.bi := rfl
@[simp] theorem State.finishPull_latch (r : PullRun) : (s.finishPull r).latch = s.latch := rfl
@[simp] theorem State.finishPull_build (r : PullRun) : (s.finishPull r).build = s.build := rfl
@[simp] theorem State.finishPull_pull (r : PullRun) : (s.finishPull r).pull = none := rfl
@[simp] theorem State.finishPull_inputs (r : PullRun) : (s.finishPull r).inputs = s.inputs := rfl
@[simp] theorem State.finishPull_port (r : PullRun) : (s.finishPull r).port = s.port := rfl
@[simp] theorem State.finishPull_replies (r : PullRun) : (s.finishPull r).replies = s.replies ++
      [{ port := r.port, code := .ok, data := BitVec.ofNat 32 r.out.length, samples := r.out }] := rfl

/-! ### After taking up a cursor and a latch -/

@[simp] theorem State.atCursor_configured (c : PullCursor) : (s.atCursor c).configured = s.configured := rfl
@[simp] theorem State.atCursor_faulted (c : PullCursor) : (s.atCursor c).faulted = s.faulted := rfl
@[simp] theorem State.atCursor_faultCause (c : PullCursor) : (s.atCursor c).faultCause = s.faultCause := rfl
@[simp] theorem State.atCursor_faultOpc (c : PullCursor) : (s.atCursor c).faultOpc = s.faultOpc := rfl
@[simp] theorem State.atCursor_fc (c : PullCursor) : (s.atCursor c).fc = s.fc := rfl
@[simp] theorem State.atCursor_sf (c : PullCursor) : (s.atCursor c).sf = s.sf := rfl
@[simp] theorem State.atCursor_slot (c : PullCursor) : (s.atCursor c).slot = s.slot := rfl
@[simp] theorem State.atCursor_seg (c : PullCursor) : (s.atCursor c).seg = c.seg := rfl
@[simp] theorem State.atCursor_off (c : PullCursor) : (s.atCursor c).off = c.off := rfl
@[simp] theorem State.atCursor_inj (c : PullCursor) : (s.atCursor c).inj = s.inj := rfl
@[simp] theorem State.atCursor_q (c : PullCursor) : (s.atCursor c).q = s.q := rfl
@[simp] theorem State.atCursor_bi (c : PullCursor) : (s.atCursor c).bi = s.bi := rfl
@[simp] theorem State.atCursor_latch (c : PullCursor) : (s.atCursor c).latch = c.latch := rfl
@[simp] theorem State.atCursor_build (c : PullCursor) : (s.atCursor c).build = s.build := rfl
@[simp] theorem State.atCursor_pull (c : PullCursor) : (s.atCursor c).pull = s.pull := rfl
@[simp] theorem State.atCursor_inputs (c : PullCursor) : (s.atCursor c).inputs = s.inputs := rfl
@[simp] theorem State.atCursor_port (c : PullCursor) : (s.atCursor c).port = s.port := rfl
@[simp] theorem State.atCursor_replies (c : PullCursor) : (s.atCursor c).replies = s.replies := rfl

/-! ### After the end of a PULL in the fault state -/

@[simp] theorem State.ignorePull_configured (r : PullRun) : (s.ignorePull r).configured = s.configured := rfl
@[simp] theorem State.ignorePull_faulted (r : PullRun) : (s.ignorePull r).faulted = s.faulted := rfl
@[simp] theorem State.ignorePull_faultCause (r : PullRun) : (s.ignorePull r).faultCause = s.faultCause := rfl
@[simp] theorem State.ignorePull_faultOpc (r : PullRun) : (s.ignorePull r).faultOpc = s.faultOpc := rfl
@[simp] theorem State.ignorePull_fc (r : PullRun) : (s.ignorePull r).fc = s.fc := rfl
@[simp] theorem State.ignorePull_sf (r : PullRun) : (s.ignorePull r).sf = s.sf := rfl
@[simp] theorem State.ignorePull_slot (r : PullRun) : (s.ignorePull r).slot = s.slot := rfl
@[simp] theorem State.ignorePull_seg (r : PullRun) : (s.ignorePull r).seg = s.seg := rfl
@[simp] theorem State.ignorePull_off (r : PullRun) : (s.ignorePull r).off = s.off := rfl
@[simp] theorem State.ignorePull_inj (r : PullRun) : (s.ignorePull r).inj = s.inj := rfl
@[simp] theorem State.ignorePull_q (r : PullRun) : (s.ignorePull r).q = s.q := rfl
@[simp] theorem State.ignorePull_bi (r : PullRun) : (s.ignorePull r).bi = s.bi := rfl
@[simp] theorem State.ignorePull_latch (r : PullRun) : (s.ignorePull r).latch = s.latch := rfl
@[simp] theorem State.ignorePull_build (r : PullRun) : (s.ignorePull r).build = s.build := rfl
@[simp] theorem State.ignorePull_pull (r : PullRun) : (s.ignorePull r).pull = none := rfl
@[simp] theorem State.ignorePull_inputs (r : PullRun) : (s.ignorePull r).inputs = s.inputs := rfl
@[simp] theorem State.ignorePull_port (r : PullRun) : (s.ignorePull r).port = s.port := rfl
@[simp] theorem State.ignorePull_replies (r : PullRun) : (s.ignorePull r).replies = s.replies ++
      [{ port := r.port, code := .ignored, data := 0, samples := [] }] := rfl

/-! ### After entering a slot -/

@[simp] theorem State.enterSlot_configured (slot : Nat) : (s.enterSlot slot).configured = s.configured := rfl
@[simp] theorem State.enterSlot_faulted (slot : Nat) : (s.enterSlot slot).faulted = s.faulted := rfl
@[simp] theorem State.enterSlot_faultCause (slot : Nat) : (s.enterSlot slot).faultCause = s.faultCause := rfl
@[simp] theorem State.enterSlot_faultOpc (slot : Nat) : (s.enterSlot slot).faultOpc = s.faultOpc := rfl
@[simp] theorem State.enterSlot_fc (slot : Nat) : (s.enterSlot slot).fc = s.fc := rfl
@[simp] theorem State.enterSlot_sf (slot : Nat) : (s.enterSlot slot).sf = s.sf := rfl
@[simp] theorem State.enterSlot_slot (slot : Nat) : (s.enterSlot slot).slot = BitVec.ofNat 16 slot := rfl
@[simp] theorem State.enterSlot_seg (slot : Nat) : (s.enterSlot slot).seg = 0 := rfl
@[simp] theorem State.enterSlot_off (slot : Nat) : (s.enterSlot slot).off = 0 := rfl
@[simp] theorem State.enterSlot_inj (slot : Nat) : (s.enterSlot slot).inj = none := rfl
@[simp] theorem State.enterSlot_q (slot : Nat) : (s.enterSlot slot).q = s.q := rfl
@[simp] theorem State.enterSlot_bi (slot : Nat) : (s.enterSlot slot).bi = s.bi := rfl
@[simp] theorem State.enterSlot_latch (slot : Nat) : (s.enterSlot slot).latch = s.latch := rfl
@[simp] theorem State.enterSlot_build (slot : Nat) : (s.enterSlot slot).build = s.build := rfl
@[simp] theorem State.enterSlot_pull (slot : Nat) : (s.enterSlot slot).pull = s.pull := rfl
@[simp] theorem State.enterSlot_inputs (slot : Nat) : (s.enterSlot slot).inputs = s.inputs := rfl
@[simp] theorem State.enterSlot_port (slot : Nat) : (s.enterSlot slot).port = s.port := rfl
@[simp] theorem State.enterSlot_replies (slot : Nat) : (s.enterSlot slot).replies = s.replies := rfl

/-! ### After the conditional updates of a PULL: what they never change -/

@[simp] theorem State.loadLatch_configured (g : Segment) : (s.loadLatch g).configured = s.configured := by
  unfold State.loadLatch; split <;> rfl
@[simp] theorem State.loadLatch_faulted (g : Segment) : (s.loadLatch g).faulted = s.faulted := by
  unfold State.loadLatch; split <;> rfl
@[simp] theorem State.loadLatch_faultCause (g : Segment) : (s.loadLatch g).faultCause = s.faultCause := by
  unfold State.loadLatch; split <;> rfl
@[simp] theorem State.loadLatch_faultOpc (g : Segment) : (s.loadLatch g).faultOpc = s.faultOpc := by
  unfold State.loadLatch; split <;> rfl
@[simp] theorem State.loadLatch_fc (g : Segment) : (s.loadLatch g).fc = s.fc := by
  unfold State.loadLatch; split <;> rfl
@[simp] theorem State.loadLatch_sf (g : Segment) : (s.loadLatch g).sf = s.sf := by
  unfold State.loadLatch; split <;> rfl
@[simp] theorem State.loadLatch_slot (g : Segment) : (s.loadLatch g).slot = s.slot := by
  unfold State.loadLatch; split <;> rfl
@[simp] theorem State.loadLatch_seg (g : Segment) : (s.loadLatch g).seg = s.seg := by
  unfold State.loadLatch; split <;> rfl
@[simp] theorem State.loadLatch_off (g : Segment) : (s.loadLatch g).off = s.off := by
  unfold State.loadLatch; split <;> rfl
@[simp] theorem State.loadLatch_inj (g : Segment) : (s.loadLatch g).inj = s.inj := by
  unfold State.loadLatch; split <;> rfl
@[simp] theorem State.loadLatch_q (g : Segment) : (s.loadLatch g).q = s.q := by
  unfold State.loadLatch; split <;> rfl
@[simp] theorem State.loadLatch_bi (g : Segment) : (s.loadLatch g).bi = s.bi := by
  unfold State.loadLatch; split <;> rfl
@[simp] theorem State.loadLatch_build (g : Segment) : (s.loadLatch g).build = s.build := by
  unfold State.loadLatch; split <;> rfl
@[simp] theorem State.loadLatch_pull (g : Segment) : (s.loadLatch g).pull = s.pull := by
  unfold State.loadLatch; split <;> rfl
@[simp] theorem State.loadLatch_inputs (g : Segment) : (s.loadLatch g).inputs = s.inputs := by
  unfold State.loadLatch; split <;> rfl
@[simp] theorem State.loadLatch_port (g : Segment) : (s.loadLatch g).port = s.port := by
  unfold State.loadLatch; split <;> rfl
@[simp] theorem State.loadLatch_replies (g : Segment) : (s.loadLatch g).replies = s.replies := by
  unfold State.loadLatch; split <;> rfl

@[simp] theorem State.moveCursor_configured (g : Segment) : (s.moveCursor g).configured = s.configured := by
  unfold State.moveCursor; split <;> rfl
@[simp] theorem State.moveCursor_faulted (g : Segment) : (s.moveCursor g).faulted = s.faulted := by
  unfold State.moveCursor; split <;> rfl
@[simp] theorem State.moveCursor_faultCause (g : Segment) : (s.moveCursor g).faultCause = s.faultCause := by
  unfold State.moveCursor; split <;> rfl
@[simp] theorem State.moveCursor_faultOpc (g : Segment) : (s.moveCursor g).faultOpc = s.faultOpc := by
  unfold State.moveCursor; split <;> rfl
@[simp] theorem State.moveCursor_fc (g : Segment) : (s.moveCursor g).fc = s.fc := by
  unfold State.moveCursor; split <;> rfl
@[simp] theorem State.moveCursor_sf (g : Segment) : (s.moveCursor g).sf = s.sf := by
  unfold State.moveCursor; split <;> rfl
@[simp] theorem State.moveCursor_slot (g : Segment) : (s.moveCursor g).slot = s.slot := by
  unfold State.moveCursor; split <;> rfl
@[simp] theorem State.moveCursor_inj (g : Segment) : (s.moveCursor g).inj = s.inj := by
  unfold State.moveCursor; split <;> rfl
@[simp] theorem State.moveCursor_q (g : Segment) : (s.moveCursor g).q = s.q := by
  unfold State.moveCursor; split <;> rfl
@[simp] theorem State.moveCursor_bi (g : Segment) : (s.moveCursor g).bi = s.bi := by
  unfold State.moveCursor; split <;> rfl
@[simp] theorem State.moveCursor_latch (g : Segment) : (s.moveCursor g).latch = s.latch := by
  unfold State.moveCursor; split <;> rfl
@[simp] theorem State.moveCursor_build (g : Segment) : (s.moveCursor g).build = s.build := by
  unfold State.moveCursor; split <;> rfl
@[simp] theorem State.moveCursor_pull (g : Segment) : (s.moveCursor g).pull = s.pull := by
  unfold State.moveCursor; split <;> rfl
@[simp] theorem State.moveCursor_inputs (g : Segment) : (s.moveCursor g).inputs = s.inputs := by
  unfold State.moveCursor; split <;> rfl
@[simp] theorem State.moveCursor_port (g : Segment) : (s.moveCursor g).port = s.port := by
  unfold State.moveCursor; split <;> rfl
@[simp] theorem State.moveCursor_replies (g : Segment) : (s.moveCursor g).replies = s.replies := by
  unfold State.moveCursor; split <;> rfl

@[simp] theorem State.continuePull_configured (r : PullRun) : (s.continuePull r).configured = s.configured := by
  unfold State.continuePull; split <;> rfl
@[simp] theorem State.continuePull_faulted (r : PullRun) : (s.continuePull r).faulted = s.faulted := by
  unfold State.continuePull; split <;> rfl
@[simp] theorem State.continuePull_faultCause (r : PullRun) : (s.continuePull r).faultCause = s.faultCause := by
  unfold State.continuePull; split <;> rfl
@[simp] theorem State.continuePull_faultOpc (r : PullRun) : (s.continuePull r).faultOpc = s.faultOpc := by
  unfold State.continuePull; split <;> rfl
@[simp] theorem State.continuePull_fc (r : PullRun) : (s.continuePull r).fc = s.fc := by
  unfold State.continuePull; split <;> rfl
@[simp] theorem State.continuePull_sf (r : PullRun) : (s.continuePull r).sf = s.sf := by
  unfold State.continuePull; split <;> rfl
@[simp] theorem State.continuePull_slot (r : PullRun) : (s.continuePull r).slot = s.slot := by
  unfold State.continuePull; split <;> rfl
@[simp] theorem State.continuePull_inj (r : PullRun) : (s.continuePull r).inj = s.inj := by
  unfold State.continuePull; split <;> rfl
@[simp] theorem State.continuePull_q (r : PullRun) : (s.continuePull r).q = s.q := by
  unfold State.continuePull; split <;> rfl
@[simp] theorem State.continuePull_bi (r : PullRun) : (s.continuePull r).bi = s.bi := by
  unfold State.continuePull; split <;> rfl
@[simp] theorem State.continuePull_build (r : PullRun) : (s.continuePull r).build = s.build := by
  unfold State.continuePull; split <;> rfl
@[simp] theorem State.continuePull_inputs (r : PullRun) : (s.continuePull r).inputs = s.inputs := by
  unfold State.continuePull; split <;> rfl
@[simp] theorem State.continuePull_port (r : PullRun) : (s.continuePull r).port = s.port := by
  unfold State.continuePull; split <;> rfl

@[simp] theorem State.substitute_configured (f : Frame) : (s.substitute f).configured = s.configured := by
  unfold State.substitute; split <;> rfl
@[simp] theorem State.substitute_faulted (f : Frame) : (s.substitute f).faulted = s.faulted := by
  unfold State.substitute; split <;> rfl
@[simp] theorem State.substitute_faultCause (f : Frame) : (s.substitute f).faultCause = s.faultCause := by
  unfold State.substitute; split <;> rfl
@[simp] theorem State.substitute_faultOpc (f : Frame) : (s.substitute f).faultOpc = s.faultOpc := by
  unfold State.substitute; split <;> rfl
@[simp] theorem State.substitute_fc (f : Frame) : (s.substitute f).fc = s.fc := by
  unfold State.substitute; split <;> rfl
@[simp] theorem State.substitute_sf (f : Frame) : (s.substitute f).sf = s.sf := by
  unfold State.substitute; split <;> rfl
@[simp] theorem State.substitute_slot (f : Frame) : (s.substitute f).slot = s.slot := by
  unfold State.substitute; split <;> rfl
@[simp] theorem State.substitute_seg (f : Frame) : (s.substitute f).seg = s.seg := by
  unfold State.substitute; split <;> rfl
@[simp] theorem State.substitute_off (f : Frame) : (s.substitute f).off = s.off := by
  unfold State.substitute; split <;> rfl
@[simp] theorem State.substitute_bi (f : Frame) : (s.substitute f).bi = s.bi := by
  unfold State.substitute; split <;> rfl
@[simp] theorem State.substitute_latch (f : Frame) : (s.substitute f).latch = s.latch := by
  unfold State.substitute; split <;> rfl
@[simp] theorem State.substitute_build (f : Frame) : (s.substitute f).build = s.build := by
  unfold State.substitute; split <;> rfl
@[simp] theorem State.substitute_pull (f : Frame) : (s.substitute f).pull = s.pull := by
  unfold State.substitute; split <;> rfl
@[simp] theorem State.substitute_inputs (f : Frame) : (s.substitute f).inputs = s.inputs := by
  unfold State.substitute; split <;> rfl
@[simp] theorem State.substitute_port (f : Frame) : (s.substitute f).port = s.port := by
  unfold State.substitute; split <;> rfl
@[simp] theorem State.substitute_replies (f : Frame) : (s.substitute f).replies = s.replies := by
  unfold State.substitute; split <;> rfl

/-! ### The derived values under updates that cannot reach them -/

@[simp] theorem State.respond_curSeg (code : Code) (data : BitVec 32) : (s.respond code data).curSeg = s.curSeg := rfl
@[simp] theorem State.accept_curSeg (p : Port) (rest : List Input) : (s.accept p rest).curSeg = s.curSeg := rfl
@[simp] theorem State.withInputs_curSeg (rest : List Input) : (s.withInputs rest).curSeg = s.curSeg := rfl
@[simp] theorem State.enqueue_curSeg (f : Frame) : (s.enqueue f).curSeg = s.curSeg := rfl
@[simp] theorem State.writeStatusCell_curSeg (bit : Bool) : (s.writeStatusCell bit).curSeg = s.curSeg := rfl

@[simp] theorem State.pullCursor_seg : s.pullCursor.seg = s.seg := rfl
@[simp] theorem State.pullCursor_off : s.pullCursor.off = s.off := rfl
@[simp] theorem State.pullCursor_latch : s.pullCursor.latch = s.latch := rfl
@[simp] theorem State.atCursor_pullCursor : s.atCursor s.pullCursor = s := rfl
@[simp] theorem State.pullCursor_atCursor (c : PullCursor) : (s.atCursor c).pullCursor = c := rfl

@[simp] theorem State.loadLatch_curFrame (g : Segment) : (s.loadLatch g).curFrame = s.curFrame := by
  unfold State.loadLatch; split <;> rfl

end Sys2Proof.Machine
end

