-- ==== Sys2Proof/Laws/Pull.lean ====
section
/-! SUPPORT. What the operations of a PULL can do, said once: the line code, the sample at the cursor, EmitStep, FrameAdvance
and one micro-step (R82 to R88). -/

namespace Sys2Proof.Machine

/-! ### What a Segment sends (R82, R91) -/

@[simp] theorem linePair_length (b : Build) (bit : Bool) : (linePair b bit).length = 2 * b.os := by
  unfold linePair
  split <;> simp <;> omega

theorem unused_not_mem_linePair (b : Build) (bit : Bool) : Sample.unused ∉ linePair b bit := by
  unfold linePair
  split <;> simp

@[simp] theorem stream_status {b : Build} {bit : Bool} {g : Segment} (h : g.kind = .status) :
    g.stream b bit = linePair b bit := by
  simp [Segment.stream, h]

@[simp] theorem stream_message {b : Build} {bit : Bool} {g : Segment} (h : g.kind = .message) :
    g.stream b bit = g.samples := by
  simp [Segment.stream, h]

@[simp] theorem stream_eob {b : Build} {bit : Bool} {g : Segment} (h : g.kind = .eob) :
    g.stream b bit = [] := by
  simp [Segment.stream, h]

/-- The samples a legal Segment sends are as many as its sample length (R22, R91). -/
theorem stream_length {b : Build} {g : Segment} (h : g.Legal b) (bit : Bool) :
    (g.stream b bit).length = g.len b := by
  obtain ⟨h1, h2, h3⟩ := h
  cases hk : g.kind with
  | status => simp [stream_status hk, Segment.len, (h1 hk).1]
  | message => simp [stream_message hk, Segment.len, (h3 hk).2.2.1]
  | eob => simp [stream_eob hk, Segment.len, (h2 hk).1]

theorem unused_not_mem_stream {b : Build} {g : Segment} (h : g.Legal b) (bit : Bool) :
    Sample.unused ∉ g.stream b bit := by
  cases hk : g.kind with
  | status => simpa [stream_status hk] using unused_not_mem_linePair b bit
  | message => simpa [stream_message hk] using (h.2.2 hk).2.2.2
  | eob => simp [stream_eob hk]

/-- Only an EOB has length 0 (R20, R22). -/
theorem len_pos {b : Build} {g : Segment} (h : g.Legal b) (hk : g.kind ≠ .eob) : 0 < g.len b := by
  have := b.os_range.1
  obtain ⟨h1, -, h3⟩ := h
  unfold Segment.len
  cases hg : g.kind with
  | status => simp [(h1 hg).1]; omega
  | message => have := (h3 hg).1; positivity
  | eob => exact absurd hg hk

/-- The length of a legal Segment fits the 32-bit offset (R10, R20). -/
theorem len_lt {b : Build} {g : Segment} (h : g.Legal b) : g.len b < 2 ^ 32 - 1 := by
  have hos := b.os_range.2
  obtain ⟨h1, h2, h3⟩ := h
  have hn : g.nbits ≤ 65535 := by
    cases hg : g.kind with
    | status => simp [(h1 hg).1]
    | message => exact (h3 hg).2.1
    | eob => simp [(h2 hg).1]
  calc g.len b ≤ 2 * 65535 * 255 := Nat.mul_le_mul (by omega) hos
    _ < 2 ^ 32 - 1 := by norm_num

/-! ### The cursor (R26, R40, R83) -/

theorem curSeg_eq_some_iff {s : State} {g : Segment} :
    s.curSeg = some g ↔ ∃ f, s.curFrame = some f ∧ f.segs[s.seg.toNat]? = some g := by
  unfold State.curSeg
  cases s.curFrame <;> simp

/-- The store read at the cursor is the read of the current Segment's buffer (R40, R83). -/
theorem memRead_cursor {s : State} {g : Segment} (h : s.curSeg = some g) (hk : g.kind = .message) :
    s.memRead s.cursorLocation = g.samples[s.off.toNat]? := by
  obtain ⟨f, hf, hg⟩ := curSeg_eq_some_iff.1 h
  unfold State.curFrame at hf
  cases hi : s.inj <;> simp_all [State.memRead, State.cursorLocation]

/-- The sample at the cursor is the one the current Segment sends there (R83, R91). -/
theorem sampleAt_eq_stream {s : State} {g : Segment} (h : s.curSeg = some g) :
    s.sampleAt g = (g.stream s.build s.latch)[s.off.toNat]? := by
  cases hk : g.kind with
  | status => simp [State.sampleAt, hk]
  | message => simp [State.sampleAt, hk, memRead_cursor h hk]
  | eob => simp [State.sampleAt, hk]

@[simp] theorem State.loadLatch_curSeg (s : State) (g : Segment) : (s.loadLatch g).curSeg = s.curSeg := by
  unfold State.curSeg; simp

/-- The latch after the latch load (R28, R85). -/
theorem loadLatch_latch (s : State) (g : Segment) :
    (s.loadLatch g).latch = if g.kind = .status ∧ s.off = 0 then s.bi else s.latch := by
  unfold State.loadLatch; split <;> rfl

/-- The Segment index after the cursor's move (R85). -/
theorem moveCursor_seg (s : State) (g : Segment) :
    (s.moveCursor g).seg = if s.off.toNat + 1 = g.len s.build then s.seg + 1 else s.seg := by
  unfold State.moveCursor; split <;> rfl

/-- The offset after the cursor's move (R85). -/
theorem moveCursor_off (s : State) (g : Segment) :
    (s.moveCursor g).off = if s.off.toNat + 1 = g.len s.build then 0 else s.off + 1 := by
  unfold State.moveCursor; split <;> rfl

/-- Whether a PULL is in progress after a sample (R84). -/
theorem continuePull_pull (s : State) (r : PullRun) :
    (s.continuePull r).pull = if r.out.length < r.count then some r else none := by
  unfold State.continuePull; split <;> rfl

/-- The cursor and the latch of the block after a sample: they move with the PULL's last micro-step. -/
theorem continuePull_pullCursor (s : State) (r : PullRun) :
    (s.continuePull r).pullCursor = if r.out.length < r.count then s.pullCursor else r.cursor := by
  unfold State.continuePull; split <;> rfl

/-! ### EmitStep, FrameAdvance, one micro-step (R85, R87) -/

/-- All that EmitStep does: the latch load, the sample at the cursor, and the cursor's move. -/
theorem emitStep_some_iff {s t : State} {g : Segment} {v : Sample} :
    s.emitStep g = some (v, t) ↔ (s.loadLatch g).sampleAt g = some v ∧ t = (s.loadLatch g).moveCursor g := by
  unfold State.emitStep
  cases h : (s.loadLatch g).sampleAt g <;> simp [h, eq_comm]

/-- EmitStep changes the cursor and the latch and nothing else, so that its PULL need hold no more of it. -/
theorem emitStep_atCursor {s t : State} {g : Segment} {v : Sample} (h : s.emitStep g = some (v, t)) :
    t = s.atCursor t.pullCursor := by
  obtain ⟨-, rfl⟩ := emitStep_some_iff.1 h
  apply State.ext <;> simp

/-- All that FrameAdvance does: the next slot, and the dequeue where it is a filler slot. -/
theorem frameAdvance_some_iff {s t : State} :
    s.frameAdvance = some t ↔
      s.fc ≠ 0 ∧ ∃ f, s.sf[(s.slot.toNat + 1) % s.fc.toNat]? = some f ∧
        t = (s.enterSlot ((s.slot.toNat + 1) % s.fc.toNat)).substitute f := by
  unfold State.frameAdvance State.nextSlot
  by_cases h : s.fc = 0
  · simp [h]
  · simp only [h, ↓reduceIte, ne_eq, not_false_eq_true, true_and]
    cases s.sf[(s.slot.toNat + 1) % s.fc.toNat]? <;> simp [eq_comm]

/-- The injected Frame and the queue after a frame advance into slot `slot`, whose Frame is `f` (R87). -/
theorem substitute_enterSlot (s : State) (slot : Nat) (f : Frame) :
    ((s.enterSlot slot).substitute f).inj = (if f.filler then s.q.head? else none) ∧
      ((s.enterSlot slot).substitute f).q = if f.filler then s.q.tail else s.q := by
  cases hf : f.filler <;> cases hq : s.q <;> simp [State.substitute, hf, hq]

/-- All that a micro-step can do: the FrameAdvance that ends the PULL, or an EmitStep after which it goes on or ends. -/
theorem pullMicroStep_next_iff {r : PullRun} {s t : State} :
    pullMicroStep r s = .next t ↔
      ∃ g, (s.atCursor r.cursor).curSeg = some g ∧
        ((g.kind = .eob ∧ ∃ u, (s.atCursor r.cursor).frameAdvance = some u ∧ t = u.finishPull r) ∨
          (g.kind ≠ .eob ∧ ∃ v u, (s.atCursor r.cursor).emitStep g = some (v, u) ∧
            t = s.continuePull (r.emit v u.pullCursor))) := by
  unfold pullMicroStep
  generalize s.atCursor r.cursor = here
  cases hg : here.curSeg with
  | none => simp [hg]
  | some g =>
    by_cases hk : g.kind = .eob
    · cases hf : here.frameAdvance <;> simp [hg, hk, hf, eq_comm]
    · cases he : here.emitStep g with
      | none => simp [hg, hk, he]
      | some p => obtain ⟨v, u⟩ := p; simp [hg, hk, he, eq_comm (a := t)]

/-- All that a turn of a PULL in progress can do: in the fault state its end without a sample, and else a micro-step. -/
theorem resumePull_next_iff {r : PullRun} {s t : State} :
    resumePull r s = .next t ↔
      (s.faulted = true ∧ t = s.ignorePull r) ∨ (s.faulted = false ∧ pullMicroStep r s = .next t) := by
  unfold resumePull
  cases h : s.faulted <;> simp [eq_comm]

@[simp] theorem resumePull_of_faulted {r : PullRun} {s : State} (h : s.faulted = true) :
    resumePull r s = .next (s.ignorePull r) := by
  simp [resumePull, h]

@[simp] theorem resumePull_of_clear {r : PullRun} {s : State} (h : s.faulted = false) :
    resumePull r s = pullMicroStep r s := by
  simp [resumePull, h]

end Sys2Proof.Machine
end

