-- ==== Sys2Proof/Laws/Registers.lean ====
section
/-! SUPPORT. The fields of the registers STATUS and FAULT, one lemma per field (R32, R33), and the phase (R31). -/

namespace Sys2Proof.Machine

variable (s : State)

theorem statusWord_configured : s.statusWord.getLsbD 0 = s.configured := by
  unfold State.statusWord
  simp only [BitVec.getLsbD_append]
  simp

theorem statusWord_faulted : s.statusWord.getLsbD 1 = s.faulted := by
  unfold State.statusWord
  simp only [BitVec.getLsbD_append]
  simp

theorem statusWord_phase : s.statusWord.extractLsb' 2 2 = s.phase.field := by
  apply BitVec.eq_of_getLsbD_eq
  intro i hi
  rw [BitVec.getLsbD_extractLsb']
  unfold State.statusWord
  simp only [BitVec.getLsbD_append]
  interval_cases i <;> simp

theorem statusWord_injected : s.statusWord.getLsbD 4 = s.inj.isSome := by
  unfold State.statusWord
  simp only [BitVec.getLsbD_append]
  simp

theorem statusWord_bi : s.statusWord.getLsbD 5 = s.bi := by
  unfold State.statusWord
  simp only [BitVec.getLsbD_append]
  simp

theorem statusWord_latch : s.statusWord.getLsbD 6 = s.latch := by
  unfold State.statusWord
  simp only [BitVec.getLsbD_append]
  simp

theorem statusWord_reserved : s.statusWord.extractLsb' 7 25 = 0 := by
  apply BitVec.eq_of_getLsbD_eq
  intro i hi
  rw [BitVec.getLsbD_extractLsb']
  unfold State.statusWord
  simp only [BitVec.getLsbD_append]
  interval_cases i <;> simp

theorem faultWord_cause : s.faultWord.extractLsb' 0 8 = s.faultCause := by
  apply BitVec.eq_of_getLsbD_eq
  intro i hi
  rw [BitVec.getLsbD_extractLsb']
  unfold State.faultWord
  simp only [BitVec.getLsbD_append]
  interval_cases i <;> simp

theorem faultWord_opcode : s.faultWord.extractLsb' 8 4 = s.faultOpc := by
  apply BitVec.eq_of_getLsbD_eq
  intro i hi
  rw [BitVec.getLsbD_extractLsb']
  unfold State.faultWord
  simp only [BitVec.getLsbD_append]
  interval_cases i <;> simp

theorem faultWord_reserved : s.faultWord.extractLsb' 12 20 = 0 := by
  apply BitVec.eq_of_getLsbD_eq
  intro i hi
  rw [BitVec.getLsbD_extractLsb']
  unfold State.faultWord
  simp only [BitVec.getLsbD_append]
  interval_cases i <;> simp

theorem phase_of_unconfigured {s : State} (h : s.configured = false) : s.phase = .none := by
  simp [State.phase, h]

theorem phase_of_segment {s : State} {g : Segment} (h : s.configured = true) (hg : s.curSeg = some g) :
    s.phase = match g.kind with
      | .status => .emittingStatusIndicator
      | .message => .emittingMessage
      | .eob => .atEndOfBurst := by
  cases hk : g.kind <;> simp [State.phase, h, hg, hk]

end Sys2Proof.Machine
end

