-- ==== Sys2Proof/Laws/Step.lean ====
section
/-! SUPPORT. What one step can do, said once (R45, R49, R63), and the fault-state check that guards four of the commands. -/

namespace Sys2Proof.Machine

@[simp] theorem unlessFaulted_of_faulted {s : State} {run : Result} (h : s.faulted = true) :
    unlessFaulted s run = .next (s.respond .ignored 0) := by
  simp [unlessFaulted, h]

@[simp] theorem unlessFaulted_of_clear {s : State} {run : Result} (h : s.faulted = false) :
    unlessFaulted s run = run := by
  simp [unlessFaulted, h]

/-- A command that may fall inside a PULL is an INJECT or a SET_STATUS (R49). -/
theorem fallsInsidePull_iff {c : Command} :
    fallsInsidePull c = true ↔
      (∃ record, decode c.word c.payload = .ok (.inject record)) ∨
        ∃ bit, decode c.word c.payload = .ok (.setStatus bit) := by
  unfold fallsInsidePull
  cases decode c.word c.payload with
  | error e => simp
  | ok i => cases i <;> simp

/-- All that a step can do. -/
theorem step_cases {s t : State} (h : step s = .next t) :
    (s.pull = none ∧ s.inputs = [] ∧ t = s) ∨
    (∃ rest, s.pull = none ∧ s.inputs = .pullTurn :: rest ∧ t = s.withInputs rest) ∨
    (∃ r ins, s.pull = some r ∧ (ins = s.inputs ∨ s.inputs = .pullTurn :: ins) ∧
      resumePull r (s.withInputs ins) = .next t) ∨
    (∃ p c rest e, TakesCommand s p c rest ∧ decode c.word c.payload = .error e ∧
      execIllegal (opcField c.word) (s.accept p rest) = .next t) ∨
    (∃ p c rest i, TakesCommand s p c rest ∧ decode c.word c.payload = .ok i ∧
      exec i (s.accept p rest) = .next t) := by
  have hdel (p : Port) (c : Command) (rest : List Input) (hc : TakesCommand s p c rest)
      (h : step s = .next t) (hn : nextTurn s = deliver p c rest s) :
      (∃ p c rest e, TakesCommand s p c rest ∧ decode c.word c.payload = .error e ∧
        execIllegal (opcField c.word) (s.accept p rest) = .next t) ∨
      (∃ p c rest i, TakesCommand s p c rest ∧ decode c.word c.payload = .ok i ∧
        exec i (s.accept p rest) = .next t) := by
    unfold step at h
    rw [hn, deliver] at h
    cases hd : decode c.word c.payload with
    | error e => rw [hd] at h; exact .inl ⟨p, c, rest, e, hc, hd, h⟩
    | ok i => rw [hd] at h; exact .inr ⟨p, c, rest, i, hc, hd, h⟩
  have hpull : s.pull = none ∨ ∃ r, s.pull = some r := by cases s.pull <;> simp
  have hins : s.inputs = [] ∨ (∃ rest, s.inputs = .pullTurn :: rest) ∨ ∃ p c rest, s.inputs = .command p c :: rest := by
    rcases s.inputs with _ | ⟨_ | _, _⟩ <;> simp
  obtain hp | ⟨r, hp⟩ := hpull
  · obtain hi | ⟨rest, hi⟩ | ⟨p, c, rest, hi⟩ := hins
    · have hn : nextTurn s = .idle := by simp [nextTurn, hp, hi]
      unfold step at h; rw [hn] at h; cases h
      exact .inl ⟨hp, hi, rfl⟩
    · have hn : nextTurn s = .pass (s.withInputs rest) := by simp [nextTurn, hp, hi]
      unfold step at h; rw [hn] at h; cases h
      exact .inr (.inl ⟨rest, hp, hi, rfl⟩)
    · have hn : nextTurn s = deliver p c rest s := by simp [nextTurn, hp, hi]
      exact .inr (.inr (.inr (hdel p c rest ⟨hi, .inl hp⟩ h hn)))
  · have hmicro (ins : List Input) (hin : ins = s.inputs ∨ s.inputs = .pullTurn :: ins)
        (hn : nextTurn s = .micro r (s.withInputs ins)) :
        ∃ r ins, s.pull = some r ∧ (ins = s.inputs ∨ s.inputs = .pullTurn :: ins) ∧
          resumePull r (s.withInputs ins) = .next t := by
      unfold step at h; rw [hn] at h
      exact ⟨r, ins, hp, hin, h⟩
    have hself : s.withInputs s.inputs = s := rfl
    obtain hi | ⟨rest, hi⟩ | ⟨p, c, rest, hi⟩ := hins
    · exact .inr (.inr (.inl (hmicro _ (.inl rfl) (by rw [hself]; simp [nextTurn, hp, hi]))))
    · exact .inr (.inr (.inl (hmicro _ (.inr hi) (by simp [nextTurn, hp, hi]))))
    · by_cases hw : waitsForPull r p c = true
      · exact .inr (.inr (.inl (hmicro _ (.inl rfl) (by rw [hself]; simp [nextTurn, hp, hi, hw]))))
      · have hn : nextTurn s = deliver p c rest s := by simp [nextTurn, hp, hi, hw]
        simp only [waitsForPull, Bool.or_eq_true, Bool.not_eq_true', decide_eq_true_eq, not_or,
          Bool.not_eq_false] at hw
        exact .inr (.inr (.inr (hdel p c rest ⟨hi, .inr ⟨r, hp, hw.2, hw.1⟩⟩ h hn)))

end Sys2Proof.Machine
end

