-- ==== Sys2Proof/Tests/Slice0.lean ====
section
/-! SUPPORT. The model's own tests, and the witnesses that the hypotheses of the statements can be met. The expected values are
those of spec/95_test_vectors.md, named by their vector, or are worked out from the rule a test names. Configuration T,
the image SF_T and the Frame F_J are the fixtures of section 0 of that file. -/

namespace Sys2Proof.Tests

open Sys2Proof.Machine

/-! ### Fixtures -/

/-- Configuration T. -/
def buildT : Build := { os := 1, bpf := 3, maxFrames := 18, maxSegs := 16, frameStoreBytes := 4096 }

def status : Segment := { kind := .status, nbits := 1, samples := [] }

def eob : Segment := { kind := .eob, nbits := 0, samples := [] }

def message (nbits : Nat) (samples : List Sample) : Segment := { kind := .message, nbits := nbits, samples := samples }

/-- Frame 0 of SF_T. -/
def frame0 : Frame :=
  { filler := false, ephemeral := false, segs := [status, message 2 [.plus, .minus, .minus, .plus], eob] }

/-- Frame 1 of SF_T, its filler Frame. -/
def frame1 : Frame :=
  { filler := true, ephemeral := false, segs := [message 2 [.plus, .minus, .plus, .minus], status, eob] }

/-- The Frame F_J. -/
def frameJ : Frame :=
  { filler := false, ephemeral := true, segs := [message 3 [.minus, .plus, .minus, .plus, .minus, .plus], eob] }

/-- The 44 bytes of SF_T, as section 0 of spec/95_test_vectors.md lists them. -/
def imageT : List Byte :=
  [0x00, 0x00, 0x00, 0x02, 0x00, 0x00, 0x00, 0x03, 0x00, 0x00, 0x00, 0x01, 0x40, 0x00, 0x00, 0x02, 0x01, 0xFF, 0xFF, 0x01,
    0x80, 0x00, 0x00, 0x00, 0x80, 0x00, 0x00, 0x03, 0x40, 0x00, 0x00, 0x02, 0x01, 0xFF, 0x01, 0xFF,
    0x00, 0x00, 0x00, 0x01, 0x80, 0x00, 0x00, 0x00]

/-- The 18 bytes of F_J. -/
def recordJ : List Byte :=
  [0x40, 0x00, 0x00, 0x02, 0x40, 0x00, 0x00, 0x03, 0xFF, 0x01, 0xFF, 0x01, 0xFF, 0x01, 0x80, 0x00, 0x00, 0x00]

/-- Configuration T after power-on. -/
def fresh : State := State.powerOn buildT

/-- Configuration T after the CONFIGURE of vector V-C1. -/
def loaded : State := { fresh with configured := true, sf := [frame0, frame1], fc := 2 }

/-- A PULL 8 from the sample port that stands where the cursor of `loaded` does. -/
def run8 : PullRun := { port := .sample, count := 8, out := [], cursor := loaded.pullCursor }

/-- `loaded` between two micro-steps of that PULL. -/
def pulling : State := { loaded with pull := some run8 }

/-- Configuration T after a fault of cause IMAGE_TRUNCATED (vector V-C3). -/
def broken : State := { fresh with faulted := true, faultCause := 0x04, faultOpc := 0x2 }

/-- `pulling` with one sample emitted, after an INJECT inside the PULL has faulted (vector V-I3). -/
def brokenPulling : State :=
  { loaded with
    faulted := true, faultCause := 0x05, faultOpc := 0x4
    pull := some { run8 with out := [.plus], cursor := { seg := 0, off := 1, latch := true } } }

/-- The state an outcome goes on to. -/
def nextOf (r : Result) : Option State :=
  match r with
  | .next s => some s
  | .fault _ => none
  | .refused _ => none

/-- The code and the data of the last response. -/
def lastReply (r : Result) : Option (Code × BitVec 32) :=
  (nextOf r).bind fun s => s.replies.getLast?.map fun rep => (rep.code, rep.data)

/-- The cause and the opcode of the fault record. -/
def faultRecord (r : Result) : Option (Bool × BitVec 8 × BitVec 4) :=
  (nextOf r).map fun s => (s.faulted, s.faultCause, s.faultOpc)

/-! ### WellFormed: each check refuses an ill-formed term and takes the value next to it -/

theorem test_pull_count_of_25_bits_refused : (Instr.pull 0x1000000).wellFormed = false := by decide
theorem test_pull_count_of_24_bits_taken : (Instr.pull 0xFFFFFF).wellFormed = true := by decide
theorem test_named_register_as_reserved_refused : (Instr.readReg (.reserved 0x09)).wellFormed = false := by decide
theorem test_register_of_nine_bits_refused : (Instr.readReg (.reserved 0x100)).wellFormed = false := by decide
theorem test_reserved_registers_taken :
    (Instr.readReg (.reserved 0x0A)).wellFormed = true ∧ (Instr.readReg (.reserved 0xFF)).wellFormed = true := by decide

/-! ### Decode: one word of every row, bit by bit: OPC, RSV, ARG (R54 to R60) -/

theorem test_decode_nop : decode 0b00000000000000000000000000000000#32 [] = .ok .nop := by decide
theorem test_decode_reset : decode 0b00010000000000000000000000000000#32 [] = .ok .reset := by decide
theorem test_decode_configure :
    decode 0b00100000000000000000000000000000#32 [0x12] = .ok (.configure [0x12]) := by decide
theorem test_decode_pull : decode 0b00110000100000000000000000000101#32 [] = .ok (.pull 8388613) := by decide
theorem test_decode_inject : decode 0b01000000000000000000000000000000#32 [0x34] = .ok (.inject [0x34]) := by decide
theorem test_decode_set_status : decode 0b01010000000000000000000000000001#32 [] = .ok (.setStatus true) := by decide
theorem test_decode_read_reg : decode 0b01100000000000000000000000000010#32 [] = .ok (.readReg .curSlot) := by decide
theorem test_decode_read_reserved_reg :
    decode 0b01100000000000000000000011111111#32 [] = .ok (.readReg (.reserved 255)) := by decide

/-- Vectors V-K3, V-P6, V-K7 and V-P7: one word for each case of R61. -/
theorem test_decode_illegal :
    decode 0x70000000 [] = .error .reservedOpcode ∧ decode 0x31000004 [] = .error .reservedField ∧
    decode 0x60000100 [] = .error .reservedArgument ∧ decode 0x30000004 [0x00] = .error .unexpectedPayload := by decide

theorem test_decode_table_word :
    decodeTableWord 32 0x30000004 = some (.pull 4) ∧ decodeTableWord 32 0x20000000 = some (.configure []) ∧
    decodeTableWord 40 0x1240000000 = some (.inject [0x12]) ∧ decodeTableWord 32 0xF0000000 = none := by decide

/-- The command word travels most-significant byte first (R42). -/
theorem test_command_bytes :
    Command.ofBytes [0x30, 0x00, 0x00, 0x04] = some { word := 0x30000004, payload := [] } ∧
    ({ word := 0x20000000, payload := [0xAB] } : Command).bytes = [0x20, 0x00, 0x00, 0x00, 0xAB] := by decide

/-! ### The image format (section 0 of spec/95_test_vectors.md) -/

theorem test_image_of_sf_t : superframeImage [frame0, frame1] = imageT := by decide
theorem test_record_of_f_j : frameJ.record = recordJ := by decide

/-! ### One step of every command -/

/-- V-K1: a NOP answers OK even while faulted, and changes nothing. -/
theorem test_nop_while_faulted :
    lastReply (exec .nop broken) = some (.ok, 0) ∧ faultRecord (exec .nop broken) = some (true, 0x04, 0x2) := by decide

/-- V-K11: a RESET clears the fault. -/
theorem test_reset_while_faulted :
    lastReply (exec .reset broken) = some (.ok, 0) ∧ faultRecord (exec .reset broken) = some (false, 0, 0) := by decide

/-- V-C1. -/
theorem test_configure_sf_t :
    (nextOf (exec (.configure imageT) fresh)).map (fun s => (s.sf, s.fc, s.slot, s.seg, s.off)) =
      some ([frame0, frame1], 2, 0, 0, 0) := by decide

/-- V-C22: the length of a sample block is checked before its values. -/
theorem test_configure_truncated_before_invalid :
    faultRecord (exec (.configure (imageT.take 16 ++ [0x00, 0xFF])) fresh) = some (true, 0x04, 0x2) := by decide

/-- V-P8: the first sample of a STATUS Segment loads the latch. -/
theorem test_pull_one :
    (nextOf (exec (.pull 1) loaded)).map (fun s => (s.latch, s.off, s.replies.map Reply.samples)) =
      some (true, 1, [[.plus]]) := by decide

/-- V-P4: a PULL on an EOB answers 0 and advances the frame. -/
theorem test_pull_on_eob :
    (nextOf (exec (.pull 6) { loaded with seg := 2 })).map (fun s => (s.slot, s.seg, s.off)) = some (1, 0, 0) := by decide

/-- V-I2. -/
theorem test_inject_f_j : (nextOf (exec (.inject recordJ) loaded)).map State.q = some [frameJ] := by decide

/-- V-I3: a byte after the record. -/
theorem test_inject_trailing : faultRecord (exec (.inject (recordJ ++ [0x00])) loaded) = some (true, 0x05, 0x4) := by decide

/-- V-B1: SET_STATUS is legal while unconfigured. -/
theorem test_set_status_unconfigured : (nextOf (exec (.setStatus false) fresh)).map State.bi = some false := by decide

/-- V-B5: SET_STATUS is ignored while faulted. -/
theorem test_set_status_while_faulted :
    lastReply (exec (.setStatus false) broken) = some (.ignored, 0) ∧
    (nextOf (exec (.setStatus false) broken)).map State.bi = some true := by decide

/-- The register table of R38 with BI_RESET = 1, and V-C1. -/
theorem test_read_status :
    lastReply (exec (.readReg .status) fresh) = some (.ok, 0x2C) ∧
    lastReply (exec (.readReg .status) loaded) = some (.ok, 0x21) := by decide

/-- V-K10. -/
theorem test_read_fault : lastReply (exec (.readReg .fault) broken) = some (.ok, 0x204) := by decide

/-- V-K4: an illegal word raises ILLEGAL_COMMAND with its opcode field, as the first command after power-on. -/
theorem test_step_illegal : faultRecord (step (fresh.withFetchWord 32 0xF0000000)) = some (true, 0x01, 0xF) := by decide

/-- V-X1: an INJECT falls between two micro-steps of a PULL, which stays in progress. -/
theorem test_step_inject_inside_pull :
    (nextOf (step (pulling.issue .inject { word := 0x40000000, payload := recordJ }))).map
      (fun s => (s.q, s.pull.isSome)) = some ([frameJ], true) := by decide

/-- R25, R50, R109: a PULL in progress emits nothing more in the fault state, and ends IGNORED, with neither its sample nor its
latch load in the block. -/
theorem test_step_pull_while_faulted :
    (nextOf (step brokenPulling)).map (fun s => (s.pull, s.off, s.latch, s.replies)) =
      some (none, 0, false, [{ port := .sample, code := .ignored, data := 0, samples := [] }]) := by decide

/-! ### Witnesses: for every statement with hypotheses, a state and operands that meet all of them together -/

/-- The checks of the invariant on a configured state that is not faulted. -/
theorem inv_of_checks (s : State) (g : Segment)
    (flags : s.configured = true ∧ s.faulted = false ∧ s.faultCause = 0 ∧ s.faultOpc = 0)
    (schedule : LawfulSuperframe s.build s.sf ∧ s.fc.toNat = s.sf.length)
    (queue : (∀ f ∈ s.q, f.Injectable s.build) ∧ s.build.qdepth = 0)
    (injected : ∀ f ∈ s.inj, f.Injectable s.build ∧ (s.sf[s.slot.toNat]?.map Frame.filler) = some true)
    (cursor : s.slot.toNat < s.fc.toNat ∧ s.curSeg = some g ∧ (g.kind = .eob → s.off = 0) ∧
      (g.kind ≠ .eob → s.off.toNat < g.len s.build))
    (room : ∀ r ∈ s.pull, r.out.length < r.count ∧ r.count ≤ 0xFFFFFF ∧ Sample.unused ∉ r.out)
    (pullCursor : ∀ r ∈ s.pull, ∃ g ∈ (s.atCursor r.cursor).curSeg,
      (g.kind = .eob → r.cursor.off = 0) ∧ (g.kind ≠ .eob → r.cursor.off.toNat < g.len s.build) := by decide) : s.Inv :=
  have over_filler : s.inj ≠ none → ∃ f, s.sf[s.slot.toNat]? = some f ∧ f.filler = true := fun h => by
    obtain ⟨f, hf⟩ := Option.ne_none_iff_exists'.1 h
    exact Option.map_eq_some_iff.1 (injected f hf).2
  { record_clear := fun _ => flags.2.2
    record_known := fun h => by simp [flags.2.1] at h
    unconfigured := fun h => by simp [flags.1] at h
    superframe := fun _ => schedule
    queue := queue.1
    queue_bound := fun h => by omega
    injected := fun f h => (injected f h).1
    cursor := fun _ =>
      { slot_lt := cursor.1
        segment := ⟨g, cursor.2⟩
        injected_over_filler := over_filler }
    pull_room := room
    pull_cursor := fun r h =>
      { slot_lt := cursor.1
        segment := pullCursor r h
        injected_over_filler := over_filler } }

/-- `loaded` with a filler slot's Frame replaced by F_J, the cursor at its start. -/
def standingIn : State := { loaded with slot := 1, inj := some frameJ }

/-- `run8` on the second sample of the first Segment of its Frame, a STATUS Segment. -/
def run8Second : PullRun := { run8 with cursor := { seg := 0, off := 1, latch := false } }

/-- `run8` on the first sample of the second Segment, a MESSAGE Segment. -/
def run8Message : PullRun := { run8 with cursor := { seg := 1, off := 0, latch := false } }

/-- `run8` on the EOB of its Frame. -/
def run8OnEob : PullRun := { run8 with cursor := { seg := 2, off := 0, latch := false } }

theorem loaded_inv : loaded.Inv :=
  inv_of_checks loaded status (by decide) (by decide) (by decide) (by decide) (by decide) (by decide)

theorem pulling_inv : pulling.Inv :=
  inv_of_checks pulling status (by decide) (by decide) (by decide) (by decide) (by decide) (by decide)

theorem standingIn_inv : standingIn.Inv :=
  inv_of_checks standingIn (message 3 [.minus, .plus, .minus, .plus, .minus, .plus]) (by decide) (by decide) (by decide)
    (by decide) (by decide) (by decide)

/-- `loaded` with a PULL in progress that has come to the EOB. -/
def pullingOnEob : State := { loaded with pull := some run8OnEob }

theorem pullingOnEob_inv : pullingOnEob.Inv :=
  inv_of_checks pullingOnEob status (by decide) (by decide) (by decide) (by decide) (by decide) (by decide)

/-- The PULL of `pullingLast`. -/
def run1 : PullRun := { port := .sample, count := 1, out := [], cursor := loaded.pullCursor }

/-- `loaded` with the last sample of a PULL 1 to come. -/
def pullingLast : State := { loaded with pull := some run1 }

theorem pullingLast_inv : pullingLast.Inv :=
  inv_of_checks pullingLast status (by decide) (by decide) (by decide) (by decide) (by decide) (by decide)

theorem witness_NopAnswersOkAndChangesNothing : (0x000001 : BitVec 24) ≠ 0 ∧ (0x800000 : BitVec 24) ≠ 0 := by decide

theorem witness_ResetKeepsWhatLiesOutsideTheBlock : ∃ t, exec .reset pulling = .next t := ⟨_, rfl⟩

theorem witness_RegistersReadTheirResetValues : ∃ t, exec .reset broken = .next t := ⟨_, rfl⟩

theorem witness_ReadRegAnswersEveryRegister :
    fresh.configured = false ∧ loaded.configured = true ∧ loaded.curSeg = some status ∧
    standingIn.curSeg = some (message 3 [.minus, .plus, .minus, .plus, .minus, .plus]) ∧
    (∃ s : State, s.configured = true ∧ s.curSeg = some eob) := by
  refine ⟨by decide, by decide, by decide, by decide, { loaded with seg := 2 }, by decide⟩

theorem witness_ConfigureLoadsEveryLawfulSuperframe :
    fresh.faulted = false ∧ fresh.configured = false ∧ LawfulSuperframe fresh.build [frame0, frame1] := by decide

theorem witness_ConfigureAcceptsOnlyLawfulSuperframes :
    fresh.faulted = false ∧
    (nextOf (exec (.configure imageT) fresh)).map State.faulted = some false := by decide

theorem witness_ConfigureWhileConfiguredFaults : loaded.faulted = false ∧ loaded.configured = true := by decide

/-- The payload ends after 43 of 44 bytes (V-C4), and before its first (V-C3). -/
theorem witness_ConfigureRefusesTruncatedImage :
    fresh.faulted = false ∧ fresh.configured = false ∧ WellShaped fresh.build [frame0, frame1] ∧
    imageT.take 43 <+: superframeImage [frame0, frame1] ∧ imageT.take 43 ≠ superframeImage [frame0, frame1] ∧
    [] <+: superframeImage [frame0, frame1] ∧ [] ≠ superframeImage [frame0, frame1] := by
  constructorm* _ ∧ _ <;> decide

theorem witness_ConfigureRefusesTrailingBytes :
    fresh.faulted = false ∧ fresh.configured = false ∧ WellShaped fresh.build [frame0, frame1] ∧
    ([0x00] : List Byte) ≠ [] := by decide

/-- Frame 0 with a message of 3 bits (V-C17). -/
def frameLong : Frame :=
  { filler := false, ephemeral := false,
    segs := [status, message 3 [.plus, .minus, .minus, .plus, .plus, .minus], eob] }

/-- The two Frames of V-C18: 4 bits, and a filler of 2. -/
def framesUneven : List Frame :=
  [{ filler := false, ephemeral := false, segs := [status, message 2 [.plus, .minus, .minus, .plus], status, eob] },
    { filler := true, ephemeral := false, segs := [message 2 [.plus, .minus, .plus, .minus], eob] }]

/-- One Superframe for each of the three clauses. -/
theorem witness_ConfigureChecksCycleThenFillers :
    fresh.faulted = false ∧ fresh.configured = false ∧
    (WellShaped fresh.build [frameLong, frame1] ∧
      ([frameLong, frame1].map Frame.bits).sum ≠ [frameLong, frame1].length * fresh.build.bpf) ∧
    (WellShaped fresh.build framesUneven ∧
      (framesUneven.map Frame.bits).sum = framesUneven.length * fresh.build.bpf ∧
      ∃ f ∈ framesUneven, f.filler = true ∧ f.bits ≠ fresh.build.bpf) ∧
    (WellShaped fresh.build [frame0, frame1] ∧
      ([frame0, frame1].map Frame.bits).sum = [frame0, frame1].length * fresh.build.bpf ∧
      ∀ f ∈ [frame0, frame1], f.filler = true → f.bits = fresh.build.bpf) := by
  constructorm* _ ∧ _ <;> decide

/-- Configuration T with a frame store of 7 bytes, one short of SF_T. -/
def tight : State := State.powerOn { buildT with frameStoreBytes := 7, frameStoreBytes_range := by decide }

/-- A bad second Frame for each clause: F_J, which is ephemeral, and Frame 1 in a store one byte too small. -/
theorem witness_ConfigureChecksFlagsThenFrameStore :
    (fresh.faulted = false ∧ fresh.configured = false ∧ [frame0].length < 2 ∧ 2 ≤ fresh.build.maxFrames ∧
      (∀ f ∈ [frame0], f.Legal fresh.build ∧ f.ephemeral = false) ∧
      ([frame0].map Frame.storeBytes).sum ≤ fresh.build.frameStoreBytes ∧ frameJ.Legal fresh.build ∧
      frameJ.ephemeral = true) ∧
    (tight.faulted = false ∧ tight.configured = false ∧ 2 ≤ tight.build.maxFrames ∧
      (∀ f ∈ [frame0], f.Legal tight.build ∧ f.ephemeral = false) ∧
      ([frame0].map Frame.storeBytes).sum ≤ tight.build.frameStoreBytes ∧ frame1.Legal tight.build ∧
      frame1.ephemeral = false ∧
      tight.build.frameStoreBytes < ([frame0].map Frame.storeBytes).sum + frame1.storeBytes) := by
  constructorm* _ ∧ _ <;> decide

/-- One header for each clause: V-C6, V-C19 and V-C20, at the values next to the legal ones. -/
theorem witness_ConfigureChecksTheSuperframeHeader :
    fresh.faulted = false ∧ fresh.configured = false ∧ ([0x00, 0x00, 0x00] : List Byte).length < 4 ∧
    (0x00010002 : Word).extractLsb' 16 16 ≠ 0 ∧
    ((0x00000000 : Word).extractLsb' 16 16 = 0 ∧ ((0x00000000 : Word).extractLsb' 0 16).toNat = 0) ∧
    ((0x00000013 : Word).extractLsb' 16 16 = 0 ∧
      fresh.build.maxFrames < ((0x00000013 : Word).extractLsb' 0 16).toNat) := by decide

/-- `loaded` with a queue of one Frame, full (V-I9), and the queue of `loaded`, which is unbounded. -/
def full : State := { loaded with build := { buildT with qdepth := 1, qdepth_range := by decide }, q := [frameJ] }

theorem witness_InjectQueuesEveryInjectableFrame :
    (loaded.faulted = false ∧ loaded.configured = true ∧ frameJ.Injectable loaded.build) ∧
    (full.faulted = false ∧ full.configured = true ∧ frameJ.Injectable full.build ∧ 1 ≤ full.build.qdepth ∧
      full.q.length = full.build.qdepth) := by
  constructorm* _ ∧ _ <;> decide

theorem witness_InjectAcceptsOnlyInjectableFrames :
    loaded.faulted = false ∧ (nextOf (exec (.inject recordJ) loaded)).map State.faulted = some false ∧
    full.faulted = false ∧ (nextOf (exec (.inject recordJ) full)).map State.faulted = some false := by decide

/-- The record of V-I6: the right flags, 2 bits. -/
def frameShort : Frame :=
  { filler := false, ephemeral := true, segs := [message 2 [.plus, .minus, .plus, .minus], eob] }

theorem witness_InjectChecksFlagsThenLength :
    loaded.faulted = false ∧ loaded.configured = true ∧
    (frameJ.Legal loaded.build ∧ ([0x00] : List Byte) ≠ []) ∧
    (frame0.Legal loaded.build ∧ ¬(frame0.ephemeral = true ∧ frame0.filler = false)) ∧
    (frameShort.Legal loaded.build ∧ frameShort.ephemeral = true ∧ frameShort.filler = false ∧
      frameShort.bits ≠ loaded.build.bpf) := by
  constructorm* _ ∧ _ <;> decide

/-- One header for each clause: a reserved bit, NSEG 0, and NSEG one above MAX_SEGS. -/
theorem witness_InjectChecksTheFrameHeader :
    loaded.faulted = false ∧ loaded.configured = true ∧ ([0x40, 0x00, 0x00] : List Byte).length < 4 ∧
    (0x40010002 : Word).extractLsb' 16 14 ≠ 0 ∧
    ((0x40000000 : Word).extractLsb' 16 14 = 0 ∧ ((0x40000000 : Word).extractLsb' 0 16).toNat = 0) ∧
    ((0x40000011 : Word).extractLsb' 16 14 = 0 ∧
      loaded.build.maxSegs < ((0x40000011 : Word).extractLsb' 0 16).toNat) := by decide

/-- A Frame of two Segments behind one good STATUS, or behind none, with a bad record for each clause. -/
theorem witness_InjectReportsTheFirstBadSegment :
    (loaded.faulted = false ∧ loaded.configured = true ∧ 2 ≤ loaded.build.maxSegs ∧ [status].length < 2 ∧
      (∀ x ∈ [status], x.Legal loaded.build ∧ x.kind ≠ .eob)) ∧
    ([0x80, 0x00, 0x00] : List Byte).length < 4 ∧
    (0x00010001 : Word).extractLsb' 16 14 ≠ 0 ∧
    ((0xC0000001 : Word).extractLsb' 16 14 = 0 ∧ ((0xC0000001 : Word).extractLsb' 30 2).toNat = 0b11) ∧
    (((0x00000002 : Word).extractLsb' 30 2).toNat = 0b00 ∧ ((0x00000002 : Word).extractLsb' 0 16).toNat ≠ 1) ∧
    (((0x80000001 : Word).extractLsb' 30 2).toNat = 0b10 ∧ ((0x80000001 : Word).extractLsb' 0 16).toNat ≠ 0) ∧
    (((0x40000000 : Word).extractLsb' 30 2).toNat = 0b01 ∧ ((0x40000000 : Word).extractLsb' 0 16).toNat = 0) ∧
    (((0x80000000 : Word).extractLsb' 30 2).toNat = 0b10 ∧ ((0x80000000 : Word).extractLsb' 0 16).toNat = 0 ∧
      ([] : List Segment).length + 1 < 2) ∧
    (((0x40000001 : Word).extractLsb' 30 2).toNat = 0b01 ∧ 1 ≤ ((0x40000001 : Word).extractLsb' 0 16).toNat ∧
      ([0x00] : List Byte).length < 2 * ((0x40000001 : Word).extractLsb' 0 16).toNat * loaded.build.os) ∧
    (2 * ((0x40000001 : Word).extractLsb' 0 16).toNat * loaded.build.os ≤ ([0x01, 0x02] : List Byte).length ∧
      (∃ x ∈ ([0x01, 0x02] : List Byte).take 2, x ≠ 0x01 ∧ x ≠ 0xFF)) ∧
    (((0x00000001 : Word).extractLsb' 30 2).toNat = 0b00 ∧ ((0x00000001 : Word).extractLsb' 0 16).toNat = 1 ∧
      [status].length + 1 = 2) ∧
    (2 * ((0x40000001 : Word).extractLsb' 0 16).toNat * loaded.build.os ≤ ([0x01, 0xFF] : List Byte).length ∧
      ∀ x ∈ ([0x01, 0xFF] : List Byte).take 2, x = 0x01 ∨ x = 0xFF) := by
  constructorm* _ ∧ _ <;> decide

/-- Bytes cut short behind Frame 0. -/
theorem witness_ConfigureAndInjectShareTheFrameParser :
    fresh.faulted = false ∧ fresh.configured = false ∧ loaded.faulted = false ∧ loaded.configured = true ∧
    loaded.build = fresh.build ∧ [frame0].length < 2 ∧ 2 ≤ fresh.build.maxFrames ∧
    (∀ f ∈ [frame0], f.Legal fresh.build ∧ f.ephemeral = false) ∧
    ([frame0].map Frame.storeBytes).sum ≤ fresh.build.frameStoreBytes ∧
    (0x04 : BitVec 8) ≠ 0x05 ∧ (0x04 : BitVec 8) ≠ 0x0B ∧ (0x04 : BitVec 8) ≠ 0x0D ∧
    nextOf (exec (.inject [0x80, 0x00]) loaded) = some (loaded.afterFault 0x4 0x04) := by
  constructorm* _ ∧ _ <;> decide

theorem witness_SetStatusWritesTheCell : fresh.faulted = false ∧ loaded.faulted = false ∧ broken.faulted = true ∧
    (0x000002 : BitVec 24).extractLsb' 1 23 ≠ 0 := by decide

theorem witness_PullAndInjectNeedAConfiguration : fresh.faulted = false ∧ fresh.configured = false := by decide

/-- A faulted block, with an illegal word at the head of its interleaving, with an INJECT inside a PULL, and with a PULL in
progress to move on. -/
theorem witness_FaultedBlockIgnoresCommands :
    broken.faulted = true ∧
    (∃ p c rest, TakesCommand (broken.issue .control { word := 0x70000000, payload := [] }) p c rest ∧
      (broken.issue .control { word := 0x70000000, payload := [] }).faulted = true ∧
      decode c.word c.payload = .error .reservedOpcode) ∧
    (∃ t, (brokenPulling.issue .inject (encode (.inject recordJ))).faulted = true ∧
      step (brokenPulling.issue .inject (encode (.inject recordJ))) = .next t ∧ t.pull.isSome = true) ∧
    (∃ t, brokenPulling.faulted = true ∧ step brokenPulling = .next t) :=
  ⟨rfl, ⟨.control, _, [], ⟨rfl, .inl rfl⟩, rfl, by decide⟩, ⟨_, rfl, rfl, rfl⟩, ⟨_, rfl, rfl⟩⟩

/-- Nothing to come, a turn for the PULL, and a READ_REG, which must wait. -/
theorem witness_PullInProgressEndsIgnoredWhileFaulted :
    brokenPulling.faulted = true ∧ brokenPulling.pull.isSome = true ∧ brokenPulling.inputs = [] ∧
    (∃ s : State, s.faulted = true ∧ s.pull.isSome = true ∧ s.inputs = [.pullTurn]) ∧
    ∃ s : State, s.faulted = true ∧ s.pull.isSome = true ∧ s.inputs = [.command .control (encode (.readReg .qLevel))] ∧
      fallsInsidePull (encode (.readReg .qLevel)) = false :=
  ⟨rfl, rfl, rfl, ⟨{ brokenPulling with inputs := [.pullTurn] }, rfl, rfl, rfl⟩,
    ⟨brokenPulling.issue .control (encode (.readReg .qLevel)), rfl, rfl, rfl, by decide⟩⟩

/-- A PULL before construction, an illegal word, and a micro-step. -/
theorem witness_FaultEntryChangesOnlyTheFaultRecord :
    (fresh.faulted = false ∧ (nextOf (exec (.pull 4) fresh)).map State.faulted = some true) ∧
    (∃ s t p c rest, s.faulted = false ∧ TakesCommand s p c rest ∧
      decode c.word c.payload = .error .reservedField ∧ step s = .next t) ∧
    ∃ t, pullMicroStep run8 pulling = .next t :=
  ⟨by decide,
    ⟨fresh.issue .sample { word := 0x31000004, payload := [] }, _, .sample, { word := 0x31000004, payload := [] }, [], rfl,
      ⟨rfl, .inl rfl⟩, by decide, rfl⟩,
    _, rfl⟩

/-- A NOP, after which the fault stays, and a RESET, after which it does not. -/
theorem witness_OnlyResetEndsTheFaultState :
    (∃ t, (broken.issue .control (encode .nop)).faulted = true ∧ step (broken.issue .control (encode .nop)) = .next t ∧
      t.faulted = true) ∧
    (∃ t, (broken.issue .control (encode .reset)).faulted = true ∧
      step (broken.issue .control (encode .reset)) = .next t ∧ t.faulted = false) :=
  ⟨⟨_, rfl, rfl, rfl⟩, ⟨_, rfl, rfl, rfl⟩⟩

theorem witness_PullZeroChangesNothing :
    loaded.faulted = false ∧ loaded.configured = true ∧ loaded.pull = none := by decide

/-- Slot 0 on its EOB, advancing into the filler slot, and slot 1, advancing round to slot 0. -/
theorem witness_PullOnEndOfBurstAdvancesTheFrame :
    (∃ s : State, s.faulted = false ∧ s.configured = true ∧ s.curSeg = some eob ∧ eob.kind = .eob ∧ s.fc ≠ 0 ∧
      s.sf[(s.slot.toNat + 1) % s.fc.toNat]? = some frame1) ∧
    (∃ s : State, s.faulted = false ∧ s.configured = true ∧ s.curSeg = some eob ∧ s.fc ≠ 0 ∧
      s.sf[(s.slot.toNat + 1) % s.fc.toNat]? = some frame0) :=
  ⟨⟨{ loaded with seg := 2 }, by decide⟩, ⟨{ loaded with slot := 1, seg := 2 }, by decide⟩⟩

/-- A PULL in progress that has come to the EOB of slot 0. -/
theorem witness_MicroStepOnEndOfBurstIsOneFrameAdvance :
    (pullingOnEob.atCursor run8OnEob.cursor).curSeg = some eob ∧ eob.kind = .eob ∧ pullingOnEob.fc ≠ 0 ∧
    pullingOnEob.sf[(pullingOnEob.slot.toNat + 1) % pullingOnEob.fc.toNat]? = some frame1 := by decide

/-- The first and the second sample of a STATUS Segment of the Superframe, and a sample of the injected Frame. -/
theorem witness_MicroStepIsOneEmitStep :
    status.kind ≠ .eob ∧ status.Legal pulling.build ∧
    ((pulling.atCursor run8.cursor).curSeg = some status ∧ run8.cursor.off.toNat < status.len pulling.build) ∧
    ((pulling.atCursor run8Second.cursor).curSeg = some status ∧
      run8Second.cursor.off.toNat < status.len pulling.build) ∧
    ∃ g : Segment, (standingIn.atCursor run8.cursor).curSeg = some g ∧ g.kind = .message ∧ g.Legal standingIn.build ∧
      run8.cursor.off.toNat < g.len standingIn.build :=
  ⟨by decide, by decide, by decide, by decide, message 3 [.minus, .plus, .minus, .plus, .minus, .plus], by decide⟩

/-- A PULL that goes on and leaves the block's cursor, the last micro-step of a PULL, an advance, a PULL taken from the
interleaving, a CONFIGURE and a RESET. -/
theorem witness_CursorMovesOnlyByPullConfigureAndReset :
    (nextOf (step pulling)).map (fun t => (t.slot, t.seg, t.off, t.pull.isSome)) = some (0, 0, 0, true) ∧
    (nextOf (step pullingLast)).map (fun t => (t.slot, t.seg, t.off, t.pull.isSome)) = some (0, 0, 1, false) ∧
    (nextOf (step pullingOnEob)).map (fun t => (t.slot, t.seg, t.off, t.pull.isSome)) = some (1, 0, 0, false) ∧
    (nextOf (step (loaded.issue .sample (encode (.pull 1))))).map (fun t => (t.slot, t.seg, t.off)) = some (0, 0, 1) ∧
    (nextOf (step (fresh.issue .control (encode (.configure imageT))))).map (fun t => (t.slot, t.seg, t.off)) =
      some (0, 0, 0) ∧
    (nextOf (step (({ loaded with slot := 1 } : State).issue .control (encode .reset)))).map State.slot = some 0 := by
  constructorm* _ ∧ _ <;> decide

/-- The first sample of a STATUS Segment, and the last of a MESSAGE Segment. -/
theorem witness_PullEmitsTheSampleAtTheCursor :
    (loaded.faulted = false ∧ loaded.configured = true ∧ loaded.curSeg = some status ∧ status.kind ≠ .eob ∧
      status.Legal loaded.build ∧ loaded.off.toNat < status.len loaded.build) ∧
    (∃ s : State, ∃ g : Segment, s.faulted = false ∧ s.configured = true ∧ s.curSeg = some g ∧ g.kind = .message ∧
      g.Legal s.build ∧ s.off.toNat + 1 = g.len s.build) :=
  ⟨by decide, { loaded with seg := 1, off := 3 }, message 2 [.plus, .minus, .minus, .plus], by decide⟩

/-- At the boundary of the two clauses: 6 samples are left of Frame 0. -/
theorem witness_PullReturnsWhatIsLeftOfTheFrame :
    loaded.Inv ∧ loaded.faulted = false ∧ loaded.configured = true ∧ loaded.pull = none ∧ loaded.inputs = [] ∧
    loaded.remaining = [.plus, .minus, .plus, .minus, .minus, .plus] ∧ 6 ≤ loaded.remaining.length ∧
    loaded.remaining.length < 7 :=
  ⟨loaded_inv, by decide⟩

theorem witness_WholeFrameIsTheConcatenationOfItsSegments :
    (loaded.curFrame = some frame0 ∧ frame0.Legal loaded.build ∧ loaded.seg = 0 ∧ loaded.off = 0) ∧
    standingIn.curFrame = some frameJ ∧ frameJ.Legal standingIn.build ∧ standingIn.seg = 0 ∧ standingIn.off = 0 := by
  constructorm* _ ∧ _ <;> decide

theorem witness_PullStaysInOneFrame :
    ∃ t r', step pulling = .next t ∧ pulling.pull = some run8 ∧ t.pull = some r' := ⟨_, _, rfl, rfl, rfl⟩

/-- A PULL 8 that meets the EOB, short of its count, and a PULL 1 that ends with its count. -/
theorem witness_ShortCountMeansBurstBoundary :
    (∃ t, pullingOnEob.Inv ∧ pullingOnEob.faulted = false ∧ step pullingOnEob = .next t ∧
      pullingOnEob.pull = some run8OnEob ∧ t.pull = none ∧ t.replies.map (fun rep => rep.samples.length) = [0]) ∧
    ∃ t, pullingLast.Inv ∧ pullingLast.faulted = false ∧ step pullingLast = .next t ∧
      pullingLast.pull = some run1 ∧ t.pull = none ∧ t.replies.map (fun rep => rep.samples.length) = [1] :=
  ⟨⟨_, pullingOnEob_inv, rfl, rfl, rfl, rfl, by decide⟩, ⟨_, pullingLast_inv, rfl, rfl, rfl, rfl, by decide⟩⟩

/-- Two PULLs of 7 samples, one more than either Frame has. -/
def cycling : State :=
  { loaded with inputs := [.command .sample (encode (.pull 7)), .command .sample (encode (.pull 7))] }

theorem witness_OneCycleSendsTheSuperframeInOrder :
    cycling.Inv ∧ cycling.faulted = false ∧ cycling.configured = true ∧ cycling.pull = none ∧ cycling.inj = none ∧
    cycling.q = [] ∧ cycling.slot = 0 ∧ cycling.seg = 0 ∧ cycling.off = 0 ∧ 7 ≤ 0xFFFFFF ∧
    (∀ f ∈ cycling.sf, f.len cycling.build < 7) ∧
    cycling.inputs = List.replicate cycling.sf.length (.command .sample (encode (.pull 7))) :=
  ⟨inv_of_checks cycling status (by decide) (by decide) (by decide) (by decide) (by decide) (by decide), by decide⟩

/-- F_J injected in slot 0: slot 1, one advance on, is the next filler slot. Three PULLs of 7 samples follow. -/
def injecting : State :=
  { loaded with
    inputs := .command .inject (encode (.inject frameJ.record)) ::
      List.replicate 3 (.command .sample (encode (.pull 7))) }

theorem witness_InjectedFrameIsSentOnceInTheNextFillerSlot :
    injecting.Inv ∧ injecting.faulted = false ∧ injecting.configured = true ∧ injecting.pull = none ∧
    injecting.inj = none ∧ injecting.q = [] ∧ injecting.seg = 0 ∧ injecting.off = 0 ∧ 7 ≤ 0xFFFFFF ∧
    (∀ f ∈ injecting.sf, f.len injecting.build < 7) ∧ frameJ.Injectable injecting.build ∧
    frameJ.len injecting.build < 7 ∧ 1 ≤ 1 ∧
    (∃ f, injecting.sf[(injecting.slot.toNat + 1) % injecting.fc.toNat]? = some f ∧ f.filler = true) ∧
    (∀ (i : Nat) (f : Frame), 1 ≤ i → i < 1 →
      injecting.sf[(injecting.slot.toNat + i) % injecting.fc.toNat]? = some f → f.filler = false) ∧
    injecting.inputs = .command .inject (encode (.inject frameJ.record)) ::
      List.replicate 3 (.command .sample (encode (.pull 7))) :=
  ⟨inv_of_checks injecting status (by decide) (by decide) (by decide) (by decide) (by decide) (by decide), rfl, rfl, rfl,
    rfl, rfl, rfl, rfl, by decide, by decide, by decide, by decide, by decide, ⟨frame1, by decide⟩,
    fun _ _ _ _ => by omega, rfl⟩

/-- F_J with its samples inverted. -/
def frameK : Frame :=
  { filler := false, ephemeral := true, segs := [message 3 [.plus, .minus, .plus, .minus, .plus, .minus], eob] }

/-- `injecting` with one Frame already queued, and five PULLs: slot 1 takes that Frame, and slot 3 takes F_J. -/
def injectingBehind : State :=
  { loaded with
    q := [frameK]
    inputs := .command .inject (encode (.inject frameJ.record)) ::
      List.replicate 5 (.command .sample (encode (.pull 7))) }

theorem witness_QueuedFramesTakeTheNextFillerSlotsInOrder :
    injectingBehind.Inv ∧ injectingBehind.faulted = false ∧ injectingBehind.configured = true ∧
    injectingBehind.pull = none ∧ injectingBehind.seg = 0 ∧ injectingBehind.off = 0 ∧ 7 ≤ 0xFFFFFF ∧
    (∀ f ∈ injectingBehind.sf, f.len injectingBehind.build < 7) ∧
    2 * injectingBehind.build.bpf * injectingBehind.build.os < 7 ∧ frameJ.Injectable injectingBehind.build ∧
    ¬(1 ≤ injectingBehind.build.qdepth ∧ injectingBehind.q.length = injectingBehind.build.qdepth) ∧
    injectingBehind.inputs = .command .inject (encode (.inject frameJ.record)) ::
      List.replicate 5 (.command .sample (encode (.pull 7))) :=
  ⟨inv_of_checks injectingBehind status (by decide) (by decide) (by decide) (by decide) (by decide) (by decide), rfl, rfl,
    rfl, rfl, rfl, by decide, by decide, by decide, by decide, by decide, rfl⟩

/-- A NOP taken with no PULL in progress, and an INJECT taken inside one. -/
theorem witness_StepRunsTheDecodedCommand :
    (TakesCommand (loaded.issue .control (encode .nop)) .control (encode .nop) [] ∧
      decode (encode .nop).word (encode .nop).payload = .ok .nop) ∧
    TakesCommand (pulling.issue .inject (encode (.inject recordJ))) .inject (encode (.inject recordJ)) [] ∧
    decode (encode (.inject recordJ)).word (encode (.inject recordJ)).payload = .ok (.inject recordJ) :=
  ⟨⟨⟨rfl, .inl rfl⟩, by decide⟩, ⟨rfl, .inr ⟨run8, rfl, by decide, by decide⟩⟩, by decide⟩

/-- A turn for the PULL in progress, and a READ_REG and a second PULL, which wait for it. -/
theorem witness_CommandsWaitForTheWholePull :
    pulling.faulted = false ∧ pulling.pull = some run8 ∧ pulling.inputs = [] ∧
    ({ pulling with inputs := [.pullTurn] } : State).inputs = .pullTurn :: [] ∧
    (∀ record, decode (encode (.readReg .qLevel)).word (encode (.readReg .qLevel)).payload ≠ .ok (.inject record)) ∧
    (∀ bit, decode (encode (.readReg .qLevel)).word (encode (.readReg .qLevel)).payload ≠ .ok (.setStatus bit)) ∧
    Port.sample = run8.port := by
  have h : decode (encode (.readReg .qLevel)).word (encode (.readReg .qLevel)).payload = .ok (.readReg .qLevel) := by decide
  simp [h, pulling, loaded, fresh, State.powerOn, run8]

theorem witness_IdleBlockHoldsItsState : loaded.pull = none ∧ loaded.inputs = [] := by decide

theorem witness_InjectCommutesWithAnEmittedSample :
    pulling.faulted = false ∧ pulling.configured = true ∧ pulling.pull = some run8 ∧ Port.inject ≠ run8.port ∧
    run8.out.length + 1 < run8.count ∧ (pulling.atCursor run8.cursor).curSeg = some status ∧ status.kind ≠ .eob ∧
    frameJ.Injectable pulling.build := by decide

/-- The record of vector V-I3, a byte too long, inside a PULL 8 on Frame 0, which has 6 samples: behind its first, and behind its
last, where `k + 1` is the number left. -/
theorem witness_FaultingInjectInsideAPullIsOneBeforeIt :
    loaded.Inv ∧ loaded.faulted = false ∧ loaded.configured = true ∧ loaded.pull = none ∧ 8 ≤ 0xFFFFFF ∧
    Port.inject ≠ .sample ∧ (0 + 1 < 8 ∧ 0 + 1 ≤ loaded.remaining.length) ∧
    (5 + 1 < 8 ∧ 5 + 1 ≤ loaded.remaining.length) ∧
    nextOf (exec (.inject (recordJ ++ [0x00])) loaded) = some (loaded.afterFault 0x4 0x05) :=
  ⟨loaded_inv, by decide⟩

/-- The second sample of a STATUS Segment, and the first of a MESSAGE Segment. -/
theorem witness_SetStatusCommutesInsideASegment :
    (∃ (r : PullRun) (s : State), s.faulted = false ∧ s.pull = some r ∧ Port.status ≠ r.port ∧ r.out.length + 1 < r.count ∧
      (s.atCursor r.cursor).curSeg = some status ∧ status.kind ≠ .eob ∧ ¬(status.kind = .status ∧ r.cursor.off = 0)) ∧
    ∃ (r : PullRun) (s : State), s.faulted = false ∧ s.pull = some r ∧ Port.status ≠ r.port ∧ r.out.length + 1 < r.count ∧
      ∃ g : Segment, (s.atCursor r.cursor).curSeg = some g ∧ g.kind = .message ∧ r.cursor.off = 0 :=
  ⟨⟨run8Second, { loaded with pull := some run8Second }, by decide⟩,
    run8Message, { loaded with pull := some run8Message }, by decide, rfl, by decide, by decide,
    message 2 [.plus, .minus, .minus, .plus], by decide⟩

/-- The two turns of a STATUS Segment with a SET_STATUS of each bit between them. -/
def toggling : State :=
  { pulling with
    inputs := [.pullTurn, .command .status (encode (.setStatus false)), .command .status (encode (.setStatus true)),
      .command .status (encode (.setStatus false)), .pullTurn] }

theorem witness_StatusSegmentCarriesOneLineCodePair :
    toggling.Inv ∧ toggling.faulted = false ∧ toggling.pull = some run8 ∧ run8.port ≠ .status ∧
    (toggling.atCursor run8.cursor).curSeg = some status ∧ status.kind = .status ∧ run8.cursor.off = 0 ∧
    run8.out.length + 2 * toggling.build.os < run8.count ∧ toggling.inputs.head? = some .pullTurn ∧
    toggling.inputs.count .pullTurn = 2 * toggling.build.os ∧
    ∀ x ∈ toggling.inputs, x = .pullTurn ∨ ∃ bit, x = .command .status (encode (.setStatus bit)) :=
  ⟨inv_of_checks toggling status (by decide) (by decide) (by decide) (by decide) (by decide) (by decide), by decide,
    by decide, by decide, by decide, by decide, by decide, by decide, by decide, by decide, by decide⟩

theorem witness_EveryStepKeepsTheInvariant : ∃ t, pulling.Inv ∧ step pulling = .next t := ⟨_, pulling_inv, rfl⟩

theorem witness_NoStopFromALawfulState : standingIn.Inv ∧ pullingOnEob.Inv := ⟨standingIn_inv, pullingOnEob_inv⟩

theorem witness_NoStepChangesTheBuild : ∃ t, step pulling = .next t := ⟨_, rfl⟩

theorem witness_SuperframeStaysUntilReset : ∃ t, loaded.configured = true ∧ step loaded = .next t := ⟨_, rfl, rfl⟩

/-- The queue stays, takes F_J at its tail, loses its head to a frame advance, and is emptied by a RESET. -/
theorem witness_QueueIsFirstInFirstOut :
    (nextOf (step { pulling with q := [frameJ] })).map State.q = some [frameJ] ∧
    (nextOf (step (pulling.issue .inject (encode (.inject recordJ))))).map State.q = some [frameJ] ∧
    (nextOf (step { pullingOnEob with q := [frameJ] })).map (fun t => (t.q, t.inj)) = some ([], some frameJ) ∧
    (nextOf (step (full.issue .control (encode .reset)))).map State.q = some [] := by
  constructorm* _ ∧ _ <;> decide

/-- A Superframe of one Frame that is no filler, and a PULL 4 to carry out. -/
def fillerless : State :=
  { loaded with sf := [frame0], fc := 1, inputs := [.command .sample (encode (.pull 4))] }

theorem witness_NoFillerMeansNoInjectedFrame :
    ∃ t, fillerless.Inv ∧ fillerless.configured = true ∧ (∀ f ∈ fillerless.sf, f.filler = false) ∧
      step fillerless = .next t :=
  ⟨_, inv_of_checks fillerless status (by decide) (by decide) (by decide) (by decide) (by decide) (by decide), rfl,
    by decide, rfl⟩

/-- `loaded` with a PULL 1 to carry out. -/
def pullOne : State := { loaded with inputs := [.command .sample (encode (.pull 1))] }

/-- Samples returned by a micro-step of the PULL in progress, and by a PULL 1 that is taken. -/
theorem witness_ResponsesCarryOnlyLineSamples :
    (∃ t, pullingLast.Inv ∧ step pullingLast = .next t ∧ t.replies.map Reply.samples = [[.plus]]) ∧
    ∃ t, pullOne.Inv ∧ step pullOne = .next t ∧ t.replies.map Reply.samples = [[.plus]] :=
  ⟨⟨_, pullingLast_inv, rfl, by decide⟩,
    ⟨_, inv_of_checks pullOne status (by decide) (by decide) (by decide) (by decide) (by decide) (by decide), rfl,
      by decide⟩⟩

theorem witness_DecodeReadsEveryEncodedCommand :
    (Instr.pull 0xFFFFFF).wellFormed = true ∧ (Instr.readReg (.reserved 0x0A)).wellFormed = true ∧
    (Instr.readReg (.reserved 0xFF)).wellFormed = true := by decide

theorem witness_EncodeWritesEveryDecodedWord : decode 0x30FFFFFF [] = .ok (.pull 0xFFFFFF) := by decide

/-- A word at each edge of the four cases of R61, and one at the head of an interleaving. -/
theorem witness_IllegalExactlyInTheFourCases :
    decode 0x70000000 [] = .error .reservedOpcode ∧ decode 0x01000000 [] = .error .reservedField ∧
    decode 0x50000002 [] = .error .reservedArgument ∧ decode 0x10000000 [0x00] = .error .unexpectedPayload ∧
    fresh.faulted = false ∧
    TakesCommand (fresh.issue .control { word := 0x70000000, payload := [] }) .control
      { word := 0x70000000, payload := [] } [] :=
  ⟨by decide, by decide, by decide, by decide, rfl, rfl, .inl rfl⟩

end Sys2Proof.Tests
end

section
/-! The byte form of a sample (R11). -/

namespace Sys2Proof.Machine

/-- Read as a two's-complement number, the byte form of a sample is its value (R11). -/
@[simp] theorem Sample.toInt_byte (v : Sample) : v.byte.toInt = v.value := by
  cases v with
  | minus => rfl
  | unused => rfl
  | plus => rfl

/-- Settles O60: the two tables of R11 are the equations of `Sample.byte` and `Sample.value`, and `Sample.toInt_byte`
ties them together. -/
theorem sampleBytesAreTwosComplement : Obligations.SampleBytesAreTwosComplement := by
  unfold Obligations.SampleBytesAreTwosComplement
  exact ⟨rfl, rfl, rfl, rfl, rfl, rfl, Sample.toInt_byte⟩

end Sys2Proof.Machine
end

section
/-! READ_REG: which words decode to it (R54, R58, R59, R62), and what each register reads (R32 to R37, R104). -/

namespace Sys2Proof

/-! ### The decoder, one opcode at a time -/

theorem payloadless_ok_iff {payload : List Byte} {i j : Instr} :
    payloadless payload i = .ok j ↔ payload = [] ∧ i = j := by
  by_cases h : payload = [] <;> simp [payloadless, h]

/-- The decoder's check of the reserved bits of an ARG field (R61). -/
theorem ite_reservedArgument_ok_iff {p : Prop} [Decidable p] {x : Except Illegal Instr} {i : Instr} :
    (if p then x else .error .reservedArgument) = .ok i ↔ p ∧ x = .ok i := by
  by_cases h : p <;> simp [h]

/-- A command comes only from a word that carries its opcode and RSV = 0 (R60, R61). -/
theorem opcode_of_decode {w : Word} {payload : List Byte} {i : Instr} (h : decode w payload = .ok i) :
    opcField w = i.opcode ∧ rsvField w = 0 := by
  have hr : rsvField w = 0 := by
    by_contra hr
    simp only [decode, if_pos hr, reduceCtorEq] at h
  simp only [decode, hr, ne_eq, not_true_eq_false, if_false] at h
  refine ⟨BitVec.eq_of_toNat_eq ?_, hr⟩
  split at h <;> simp only [ite_reservedArgument_ok_iff, payloadless_ok_iff, Except.ok.injEq, reduceCtorEq] at h
  case h_1 hop | h_2 hop | h_6 hop | h_7 hop => obtain ⟨-, -, rfl⟩ := h; exact hop
  case h_3 hop | h_4 hop | h_5 hop => obtain ⟨-, rfl⟩ := h; exact hop

/-- What the decoder does with a word of opcode 0x6 (R58, R59). -/
theorem decode_of_readReg_opcode {w : Word} (payload : List Byte) (ho : opcField w = 0x6) (hr : rsvField w = 0) :
    decode w payload =
      if (argField w).extractLsb' 8 16 = 0 then
        payloadless payload (.readReg (Reg.ofNumber ((argField w).extractLsb' 0 8).toNat))
      else .error .reservedArgument := by
  simp [decode, ho, hr]

/-! ### The words of READ_REG -/

/-- A READ_REG word, cut into OPC, RSV, and the reserved part and the register number of ARG (R54, R58). -/
theorem readRegWord_eq_fields (n : BitVec 8) :
    (0x600000 : BitVec 24) ++ n = (0x6 : BitVec 4) ++ (0 : BitVec 4) ++ ((0 : BitVec 16) ++ n) := by
  apply BitVec.eq_of_getLsbD_eq
  intro i hi
  simp only [BitVec.getLsbD_append]
  interval_cases i <;> simp

theorem decode_readRegWord (n : BitVec 8) :
    decode ((0x600000 : BitVec 24) ++ n) [] = .ok (.readReg (Reg.ofNumber n.toNat)) := by
  rw [readRegWord_eq_fields, decode_of_readReg_opcode [] (opcField_append ..) (rsvField_append ..), argField_append,
    BitVec.extractLsb'_append_eq_left, BitVec.extractLsb'_append_eq_right, if_pos rfl]
  rfl

theorem decode_eq_readReg_iff {w : Word} {payload : List Byte} {reg : Reg} :
    decode w payload = .ok (.readReg reg) ↔
      ∃ n : BitVec 8, w = (0x600000 : BitVec 24) ++ n ∧ payload = [] ∧ reg = Reg.ofNumber n.toNat := by
  constructor
  · intro h
    obtain ⟨hop, hr⟩ := opcode_of_decode h
    rw [decode_of_readReg_opcode payload hop hr, ite_reservedArgument_ok_iff, payloadless_ok_iff,
      Instr.readReg.injEq] at h
    obtain ⟨hz, hp, hreg⟩ := h
    have harg : argField w = (0 : BitVec 16) ++ (argField w).extractLsb' 0 8 := by
      rw [← hz]
      exact (BitVec.extractLsb'_append_extractLsb' (w := 16) (len := 8)).symm
    have hop : opcField w = 0x6 := hop
    refine ⟨(argField w).extractLsb' 0 8, ?_, hp, hreg.symm⟩
    rw [readRegWord_eq_fields, ← harg, ← hop, ← hr, word_eq_fields]
  · rintro ⟨n, rfl, rfl, rfl⟩
    exact decode_readRegWord n

/-- The numbers past the named registers are the reserved ones (R37). -/
theorem Reg.ofNumber_of_le {number : Nat} (h : 0x0A ≤ number) : Reg.ofNumber number = .reserved number := by
  obtain ⟨k, rfl⟩ := Nat.exists_eq_add_of_le' h
  rfl

namespace Machine

/-! ### What each register reads -/

section
variable (s : State)

/-- R104, as one record update: the register's value is the response, and nothing else changes. -/
theorem exec_readReg (reg : Reg) :
    exec (.readReg reg) s =
      .next { s with
        replies := s.replies ++ [{ port := s.port, code := .ok, data := s.regValue reg, samples := [] }] } := rfl

/-- The PHASE field of an unconfigured block (R31, R32). -/
theorem statusWord_phase_of_unconfigured (h : s.configured = false) : s.statusWord.extractLsb' 2 2 = 3 := by
  rw [statusWord_phase, phase_of_unconfigured h]
  rfl

/-- The PHASE field of a configured block follows the kind of the current Segment (R31, R32). -/
theorem statusWord_phase_of_segment {g : Segment} (h : s.configured = true) (hg : s.curSeg = some g) :
    s.statusWord.extractLsb' 2 2 = match g.kind with | .status => 0 | .message => 1 | .eob => 2 := by
  rw [statusWord_phase, phase_of_segment h hg]
  cases g.kind with
  | status => rfl
  | message => rfl
  | eob => rfl

theorem regValue_curSlot_toNat : (s.regValue .curSlot).toNat = s.slot.toNat :=
  BitVec.toNat_setWidth_of_le (by decide)

theorem regValue_curSeg_toNat : (s.regValue .curSeg).toNat = s.seg.toNat :=
  BitVec.toNat_setWidth_of_le (by decide)

theorem regValue_frameCount_toNat : (s.regValue .frameCount).toNat = s.fc.toNat :=
  BitVec.toNat_setWidth_of_le (by decide)

/-- Q_LEVEL saturates, so the length it shows fits the register (R35). -/
theorem regValue_qLevel_toNat : (s.regValue .qLevel).toNat = min s.q.length (2 ^ 32 - 1) :=
  Nat.mod_eq_of_lt (by omega)

theorem regValue_paramOs_toNat : (s.regValue .paramOs).toNat = s.build.os :=
  Nat.mod_eq_of_lt (s.build.os_range.2.trans_lt (by decide))

theorem regValue_paramBpf_toNat : (s.regValue .paramBpf).toNat = s.build.bpf :=
  Nat.mod_eq_of_lt (s.build.bpf_range.2.trans_lt (by decide))

theorem regValue_paramQdepth_toNat : (s.regValue .paramQdepth).toNat = s.build.qdepth :=
  Nat.mod_eq_of_lt s.build.qdepth_range

theorem regValue_of_reserved_number {number : Nat} (h : 0x0A ≤ number) : s.regValue (Reg.ofNumber number) = 0 := by
  rw [Reg.ofNumber_of_le h]
  rfl

end

/-- Settles O5: `decode_eq_readReg_iff` says which words are a READ_REG, `exec_readReg` what one answers and leaves
unchanged, and the lemmas on `statusWord`, `faultWord` and `regValue` lay the answer out, register by register. -/
theorem readRegAnswersEveryRegister : Obligations.ReadRegAnswersEveryRegister := by
  unfold Obligations.ReadRegAnswersEveryRegister
  constructor
  · intro w payload
    constructor
    · rintro ⟨reg, h⟩
      obtain ⟨n, hw, hp, -⟩ := decode_eq_readReg_iff.mp h
      exact ⟨⟨n, hw⟩, hp⟩
    · rintro ⟨⟨n, rfl⟩, rfl⟩
      exact ⟨_, decode_readRegWord n⟩
  · intro s n
    refine ⟨_, _, decode_readRegWord n, exec_readReg s _, ?status, ?fault, ?curSlot, ?curSeg, ?curOff, ?qLevel,
      ?frameCount, ?paramOs, ?paramBpf, ?paramQdepth, regValue_of_reserved_number s⟩
    case status =>
      rintro rfl
      exact ⟨statusWord_configured s, statusWord_faulted s, statusWord_phase_of_unconfigured s,
        fun _ => statusWord_phase_of_segment s, statusWord_injected s, statusWord_bi s, statusWord_latch s,
        statusWord_reserved s⟩
    case fault => rintro rfl; exact ⟨faultWord_cause s, faultWord_opcode s, faultWord_reserved s⟩
    case curSlot => rintro rfl; exact regValue_curSlot_toNat s
    case curSeg => rintro rfl; exact regValue_curSeg_toNat s
    case curOff => rintro rfl; rfl
    case qLevel => rintro rfl; exact regValue_qLevel_toNat s
    case frameCount => rintro rfl; exact regValue_frameCount_toNat s
    case paramOs => rintro rfl; exact regValue_paramOs_toNat s
    case paramBpf => rintro rfl; exact regValue_paramBpf_toNat s
    case paramQdepth => rintro rfl; exact regValue_paramQdepth_toNat s

end Machine

end Sys2Proof
end

section
/-! Illegal commands: which words the decoder rejects (R61, R62), and what taking one does (R63, R106, R108). -/

namespace Sys2Proof

/-! ### The words the decoder rejects -/

/-- A command that takes no payload is rejected exactly when it carries one (R59). -/
theorem payloadless_error_iff {payload : List Byte} {i : Instr} :
    (∃ e, payloadless payload i = .error e) ↔ payload ≠ [] := by
  by_cases h : payload = [] <;> simp [payloadless, h]

/-- The decoder's check of the reserved bits of an ARG field, as a rejection (R61). -/
theorem ite_reservedArgument_error_iff {p : Prop} [Decidable p] {x : Except Illegal Instr} :
    (∃ e, (if p then x else .error .reservedArgument) = .error e) ↔ ¬p ∨ ∃ e, x = .error e := by
  by_cases h : p <;> simp [h]

/-- A word whose RSV field is nonzero is illegal, whatever else it carries (R61). -/
theorem decode_of_rsvField_ne_zero {w : Word} (payload : List Byte) (hr : rsvField w ≠ 0) :
    decode w payload = .error .reservedField :=
  if_pos hr

/-- The decoder rejects a word in the four cases of R61 and in no other: RSV first, then one case per row of the opcode
map and one for the opcodes that have no row. -/
theorem decode_error_iff (w : Word) (payload : List Byte) :
    (∃ e, decode w payload = .error e) ↔
      7 ≤ (opcField w).toNat ∨ rsvField w ≠ 0 ∨
        ((opcField w).toNat ∈ [0x0, 0x1, 0x2, 0x4] ∧ argField w ≠ 0) ∨
        ((opcField w).toNat = 0x5 ∧ (argField w).extractLsb' 1 23 ≠ 0) ∨
        ((opcField w).toNat = 0x6 ∧ (argField w).extractLsb' 8 16 ≠ 0) ∨
        ((opcField w).toNat ∈ [0x0, 0x1, 0x3, 0x5, 0x6] ∧ payload ≠ []) := by
  by_cases hr : rsvField w = 0
  case neg =>
    rw [decode_of_rsvField_ne_zero payload hr]
    exact ⟨fun _ => .inr (.inl hr), fun _ => ⟨_, rfl⟩⟩
  case pos =>
    simp only [decode, hr, ne_eq, not_true_eq_false, if_false, false_or]
    split
    case h_1 hop | h_2 hop | h_6 hop | h_7 hop =>
      rw [ite_reservedArgument_error_iff, payloadless_error_iff]
      simp [hop]
    case h_3 hop | h_5 hop =>
      rw [ite_reservedArgument_error_iff]
      simp [hop]
    case h_4 hop =>
      rw [payloadless_error_iff]
      simp [hop]
    case h_8 h0 h1 h2 h3 h4 h5 h6 =>
      simp only [imp_false] at h0 h1 h2 h3 h4 h5 h6
      have hop : 7 ≤ (opcField w).toNat := by omega
      exact ⟨fun _ => .inl hop, fun _ => ⟨_, rfl⟩⟩

namespace Machine

/-! ### Taking a command -/

section
variable {s : State} {p : Port} {c : Command} {rest : List Input}

/-- A command whose turn has come is the next atomic step, between two PULLs or inside one (R48, R49). -/
theorem nextTurn_of_takesCommand (h : TakesCommand s p c rest) : nextTurn s = deliver p c rest s := by
  obtain ⟨hin, hp | ⟨r, hp, hport, hfalls⟩⟩ := h
  · simp [nextTurn, hp, hin]
  · have hw : waitsForPull r p c = false := by simp [waitsForPull, hfalls, hport]
    simp [nextTurn, hp, hin, hw]

/-- The step that takes an illegal command (R63). -/
theorem step_of_decode_error {e : Illegal} (h : TakesCommand s p c rest) (hd : decode c.word c.payload = .error e) :
    step s = execIllegal (opcField c.word) (s.accept p rest) := by
  simp only [step, nextTurn_of_takesCommand h, deliver, hd]

/-- Outside the fault state an illegal command raises ILLEGAL_COMMAND with its opcode field (R61, R106). -/
theorem execIllegal_of_clear (opc : BitVec 4) (h : s.faulted = false) :
    execIllegal opc s = .next (s.raise opc .illegalCommand) :=
  unlessFaulted_of_clear h

end

/-- Settles O57: `decode_error_iff` says which words are illegal, `step_of_decode_error` that taking one is
`execIllegal`, and `execIllegal_of_clear` what that raises. -/
theorem illegalExactlyInTheFourCases : Obligations.IllegalExactlyInTheFourCases := by
  unfold Obligations.IllegalExactlyInTheFourCases
  intro w payload
  refine ⟨decode_error_iff w payload, ?raises⟩
  case raises =>
    intro s p rest e hclear htakes hd
    rw [step_of_decode_error htakes hd, execIllegal_of_clear _ (s := s.accept p rest) hclear]
    rfl

end Machine

end Sys2Proof
end

section
/-! CONFIGURE of a well-shaped image: what its two length checks answer (R78, R79), and what an answer of the parser does to
the block (R80, R107, R108). -/

namespace Sys2Proof.Machine

/-! ### The parser on a well-shaped image -/

/-- The header word of a superframe image: its reserved half is 0 and it counts the Frames (R65). -/
theorem take32_superframeImage (fs : List Frame) (extra : List Byte) :
    take32 (superframeImage fs ++ extra) =
      .ok ((0 : BitVec 16) ++ BitVec.ofNat 16 fs.length, fs.flatMap Frame.record ++ extra) := by
  rw [superframeImage, List.append_assoc, take32_wordBytes]

/-- A well-shaped image passes every check of R77 up to its end; left are the check for trailing bytes and the two length
checks. -/
theorem parseSuperframe_of_wellShaped {b : Build} {fs : List Frame} (h : WellShaped b fs) (extra : List Byte) :
    parseSuperframe b (superframeImage fs ++ extra) = (do
      require (extra = []) .imageTrailing
      require (cycleLawHolds b fs) .cycleLengthMismatch
      require (fillersFit b fs) .frameLengthMismatch
      .ok fs) := by
  obtain ⟨⟨hpos, hmax⟩, hall, hstore⟩ := h
  have hcount : headerCount ((0 : BitVec 16) ++ BitVec.ofNat 16 fs.length) = fs.length := by
    rw [headerCount_append, BitVec.toNat_ofNat]
    exact Nat.mod_eq_of_lt (by have := b.maxFrames_range.2; omega)
  have hcapacity : (fs.length != 0 && decide (fs.length ≤ b.maxFrames)) = true := by
    simp only [Bool.and_eq_true, bne_iff_ne, decide_eq_true_eq]
    omega
  have hframes : parseFrames b fs.length 0 (fs.flatMap Frame.record ++ extra) = .ok (fs, extra) :=
    parseFrames_ok_iff.mpr ⟨rfl, rfl, hall, fun _ => by rwa [Nat.zero_add]⟩
  simp only [parseSuperframe, take32_superframeImage, parsed_ok_bind, superframeReserved_append, decide_true, require_true,
    hcount, hcapacity, hframes]

section
variable {b : Build} {fs : List Frame}

/-- On a whole well-shaped image only the two length checks are left (R78, R79). -/
theorem parseSuperframe_image_of_wellShaped (h : WellShaped b fs) :
    parseSuperframe b (superframeImage fs) = (do
      require (cycleLawHolds b fs) .cycleLengthMismatch
      require (fillersFit b fs) .frameLengthMismatch
      .ok fs) := by
  simpa using parseSuperframe_of_wellShaped h []

/-- The cycle-length law is checked before the filler Frames (R78). -/
theorem parseSuperframe_of_cycle_mismatch (h : WellShaped b fs) (hcycle : (fs.map Frame.bits).sum ≠ fs.length * b.bpf) :
    parseSuperframe b (superframeImage fs) = .error .cycleLengthMismatch := by
  have hlaw : cycleLawHolds b fs = false := Bool.eq_false_iff.mpr (mt cycleLawHolds_iff.mp hcycle)
  rw [parseSuperframe_image_of_wellShaped h, hlaw, require_false, parsed_error_bind]

/-- Behind the cycle-length law, a filler Frame of another length than `BPF` bits is refused (R79). -/
theorem parseSuperframe_of_filler_mismatch (h : WellShaped b fs) (hcycle : (fs.map Frame.bits).sum = fs.length * b.bpf)
    (hfiller : ∃ f ∈ fs, f.filler = true ∧ f.bits ≠ b.bpf) :
    parseSuperframe b (superframeImage fs) = .error .frameLengthMismatch := by
  have hfit : fillersFit b fs = false := by
    obtain ⟨f, hmem, hf, hbits⟩ := hfiller
    exact Bool.eq_false_iff.mpr fun hfit => hbits (fillersFit_iff.mp hfit f hmem hf)
  rw [parseSuperframe_image_of_wellShaped h, cycleLawHolds_iff.mpr hcycle, hfit, require_true, parsed_ok_bind,
    require_false, parsed_error_bind]

/-- The cycle-length law in samples and in bits (R8, R78). -/
theorem sum_len_eq_iff_sum_bits_eq :
    (fs.map (Frame.len b)).sum = fs.length * b.bpf * b.os * 2 ↔ (fs.map Frame.bits).sum = fs.length * b.bpf := by
  rw [← cycleLawHolds_iff, cycleLawHolds, decide_eq_true_eq]

end

/-! ### What CONFIGURE makes of the parser's answer -/

section
variable {s : State} {image : List Byte}

/-- In an unconfigured block a payload that the parser refuses raises the parser's cause, and nothing else changes (R80,
R107, R108). -/
theorem exec_configure_of_error {cause : Cause} (hclear : s.faulted = false) (hconf : s.configured = false)
    (hparse : parseSuperframe s.build image = .error cause) :
    exec (.configure image) s = .next (s.afterFault 0x2 cause.code) := by
  change execConfigure image s = _
  rw [execConfigure, unlessFaulted_of_clear hclear, hconf, hparse]
  rfl

/-- In an unconfigured block a payload that the parser accepts is loaded (R80). -/
theorem exec_configure_of_ok {fs : List Frame} (hclear : s.faulted = false) (hconf : s.configured = false)
    (hparse : parseSuperframe s.build image = .ok fs) :
    exec (.configure image) s = .next ((s.loadSuperframe fs).respond .ok 0) := by
  change execConfigure image s = _
  rw [execConfigure, unlessFaulted_of_clear hclear, hconf, hparse]
  rfl

end

/-- Settles O12: after the shape of the image the parser makes the two length checks, in this order, and the three clauses
are its three answers. -/
theorem configureChecksCycleThenFillers : Obligations.ConfigureChecksCycleThenFillers := by
  unfold Obligations.ConfigureChecksCycleThenFillers
  intro s fs hclear hconf hshape
  refine ⟨sum_len_eq_iff_sum_bits_eq, ?cycle, ?filler, ?loaded⟩
  case cycle =>
    intro hcycle
    exact exec_configure_of_error hclear hconf (parseSuperframe_of_cycle_mismatch hshape hcycle)
  case filler =>
    intro hcycle hfiller
    exact exec_configure_of_error hclear hconf (parseSuperframe_of_filler_mismatch hshape hcycle hfiller)
  case loaded =>
    intro hcycle hfillers
    have hparse : parseSuperframe s.build (superframeImage fs) = .ok fs :=
      parseSuperframe_ok_iff.mpr ⟨rfl, hshape, hcycle, hfillers⟩
    exact ⟨_, exec_configure_of_ok hclear hconf hparse, rfl, hclear⟩

end Sys2Proof.Machine
end

section
/-! The line code of one bit (R82). -/

namespace Sys2Proof.Machine

section
variable {b : Build} {bit : Bool}

/-- A bit that differs from the line polarity goes out `+1` first (R82). -/
theorem linePair_of_ne_linePol (h : bit ≠ b.linePol) :
    linePair b bit = List.replicate b.os .plus ++ List.replicate b.os .minus :=
  if_pos (bne_iff_ne.mpr h)

/-- A bit that equals the line polarity goes out `-1` first (R82). -/
theorem linePair_of_eq_linePol (h : bit = b.linePol) :
    linePair b bit = List.replicate b.os .minus ++ List.replicate b.os .plus :=
  if_neg fun hne => bne_iff_ne.mp hne h

end

/-- The two bits have inverse line codes (R82): one of them is the line polarity, and each order of the two runs is the
other one reversed. -/
theorem linePair_not (b : Build) (bit : Bool) : linePair b (!bit) = (linePair b bit).reverse := by
  by_cases h : bit = b.linePol
  · have hnot : (!bit) ≠ b.linePol := h ▸ Bool.not_ne_self bit
    rw [linePair_of_eq_linePol h, linePair_of_ne_linePol hnot, List.reverse_append]
    simp only [List.reverse_replicate]
  · have hnot : (!bit) = b.linePol := Bool.not_eq.mpr h
    rw [linePair_of_ne_linePol h, linePair_of_eq_linePol hnot, List.reverse_append]
    simp only [List.reverse_replicate]

/-- Settles O59: the line code by the polarity of the bit, its length, and its reversal under negation of the bit. -/
theorem linePairIsTwoRunsOfOppositePolarity : Obligations.LinePairIsTwoRunsOfOppositePolarity := by
  unfold Obligations.LinePairIsTwoRunsOfOppositePolarity
  intro b bit
  exact ⟨linePair_of_ne_linePol, linePair_of_eq_linePol, linePair_length b bit, linePair_not b bit⟩

end Sys2Proof.Machine
end

section
/-! The start of a PULL (R84), and the micro-step on an EOB: one FrameAdvance, which ends the PULL (R87). -/

namespace Sys2Proof.Machine

/-- Outside the fault state, a PULL of at least one sample from a configured block takes its first micro-step at once, from
the cursor and the latch of the block (R84). -/
theorem exec_pull_of_configured {s : State} {n : Nat} (hclear : s.faulted = false) (hconf : s.configured = true)
    (hn : 1 ≤ n) :
    exec (.pull n) s = pullMicroStep { port := s.port, count := n, out := [], cursor := s.pullCursor } s := by
  change execPull n s = _
  rw [execPull, unlessFaulted_of_clear hclear, if_pos hconf, beginPull, if_neg (Nat.one_le_iff_ne_zero.mp hn)]

/-- The whole state after a frame advance into slot `slot`, whose Frame is `f`: the cursor, the injected Frame and the queue
are all that changes (R87). -/
theorem substitute_enterSlot_eq (s : State) (slot : Nat) (f : Frame) :
    (s.enterSlot slot).substitute f =
      { s with
        slot := BitVec.ofNat 16 slot
        seg := 0
        off := 0
        inj := if f.filler then s.q.head? else none
        q := if f.filler then s.q.tail else s.q } := by
  obtain ⟨hinj, hq⟩ := substitute_enterSlot s slot f
  apply State.ext
  case inj => exact hinj
  case q => exact hq
  all_goals simp

/-- On an EOB, where the next slot holds the Frame `f`, a micro-step enters that slot and ends the PULL (R87). -/
theorem pullMicroStep_of_eob {s : State} {r : PullRun} {g : Segment} {f : Frame}
    (hseg : (s.atCursor r.cursor).curSeg = some g) (heob : g.kind = .eob) (hfc : s.fc ≠ 0)
    (hf : s.sf[(s.slot.toNat + 1) % s.fc.toNat]? = some f) :
    pullMicroStep r s =
      .next ((((s.atCursor r.cursor).enterSlot ((s.slot.toNat + 1) % s.fc.toNat)).substitute f).finishPull r) := by
  have hadvance : (s.atCursor r.cursor).frameAdvance =
      some (((s.atCursor r.cursor).enterSlot ((s.slot.toNat + 1) % s.fc.toNat)).substitute f) :=
    frameAdvance_some_iff.mpr ⟨hfc, f, hf, rfl⟩
  exact pullMicroStep_next_iff.mpr ⟨g, hseg, .inl ⟨heob, _, hadvance, rfl⟩⟩

/-- Settles O28: the first micro-step of the PULL is the FrameAdvance, and it ends the PULL before a sample. -/
theorem pullOnEndOfBurstAdvancesTheFrame : Obligations.PullOnEndOfBurstAdvancesTheFrame := by
  unfold Obligations.PullOnEndOfBurstAdvancesTheFrame
  intro s n g f hclear hconf hn hseg heob hfc hf
  rw [exec_pull_of_configured hclear hconf hn, pullMicroStep_of_eob ?eob heob hfc hf, State.atCursor_pullCursor,
    substitute_enterSlot_eq]
  · rfl
  case eob => rwa [State.atCursor_pullCursor]

end Sys2Proof.Machine
end

section
/-! INJECT of the record of a legal Frame: the checks R94 and R95 make behind its shape, in their order, and what an answer
of the parser does to the block (R94, R96, R107, R108). -/

namespace Sys2Proof.Machine

/-! ### The parser on the record of a legal Frame -/

section
variable {b : Build} {f : Frame}

/-- The record of a legal Frame passes every check of R73; left are the check for trailing bytes and those on the flags and
the bit count (R94). -/
theorem parseInject_of_legal (h : f.Legal b) (extra : List Byte) :
    parseInject b (f.record ++ extra) = (do
      require (extra = []) .imageTrailing
      require (f.ephemeral && !f.filler) .badFrameFlags
      require (f.bits = b.bpf) .frameLengthMismatch
      .ok f) := by
  have hframe : parseFrame b (f.record ++ extra) = .ok (f, extra) := parseFrame_ok_iff.mpr ⟨rfl, h⟩
  rw [parseInject, hframe, parsed_ok_bind]

/-- On the record alone only the checks on the flags and the bit count are left (R95). -/
theorem parseInject_record_of_legal (h : f.Legal b) :
    parseInject b f.record = (do
      require (f.ephemeral && !f.filler) .badFrameFlags
      require (f.bits = b.bpf) .frameLengthMismatch
      .ok f) := by
  simpa using parseInject_of_legal h []

/-- Trailing bytes are refused before either check of R95 (R94). -/
theorem parseInject_of_trailing {extra : List Byte} (h : f.Legal b) (hextra : extra ≠ []) :
    parseInject b (f.record ++ extra) = .error .imageTrailing := by
  rw [parseInject_of_legal h, decide_eq_false hextra, require_false, parsed_error_bind]

/-- A Frame that is not ephemeral, or is a filler, is refused whatever its bit count (R95). -/
theorem parseInject_of_bad_flags (h : f.Legal b) (hflags : ¬(f.ephemeral = true ∧ f.filler = false)) :
    parseInject b f.record = .error .badFrameFlags := by
  have hcheck : (f.ephemeral && !f.filler) = false := by
    rwa [Bool.eq_false_iff, ne_eq, Bool.and_eq_true, Bool.not_eq_true']
  rw [parseInject_record_of_legal h, hcheck, require_false, parsed_error_bind]

/-- Behind the flags, a Frame of another length than `BPF` bits is refused (R95). -/
theorem parseInject_of_length_mismatch (h : f.Legal b) (hephemeral : f.ephemeral = true) (hfiller : f.filler = false)
    (hbits : f.bits ≠ b.bpf) : parseInject b f.record = .error .frameLengthMismatch := by
  have hcheck : (f.ephemeral && !f.filler) = true := by rw [hephemeral, hfiller]; rfl
  rw [parseInject_record_of_legal h, hcheck, require_true, parsed_ok_bind, decide_eq_false hbits, require_false,
    parsed_error_bind]

end

/-! ### What INJECT makes of the parser's answer -/

section
variable {s : State} {record : List Byte}

/-- Only a finite queue is ever full (R96). -/
theorem queueFull_iff : s.queueFull = true ↔ 1 ≤ s.build.qdepth ∧ s.q.length = s.build.qdepth := by
  rw [State.queueFull, Bool.and_eq_true, decide_eq_true_eq, decide_eq_true_eq]

/-- In a configured block a payload that the parser refuses raises the parser's cause, and nothing else changes (R94, R107,
R108). -/
theorem exec_inject_of_error {cause : Cause} (hclear : s.faulted = false) (hconf : s.configured = true)
    (hparse : parseInject s.build record = .error cause) :
    exec (.inject record) s = .next (s.afterFault 0x4 cause.code) := by
  change execInject record s = _
  rw [execInject, unlessFaulted_of_clear hclear, if_pos hconf, hparse]
  rfl

/-- In a configured block a payload that the parser accepts is queued, unless the queue is full (R94, R96). -/
theorem exec_inject_of_ok {f : Frame} (hclear : s.faulted = false) (hconf : s.configured = true)
    (hparse : parseInject s.build record = .ok f) :
    exec (.inject record) s =
      if s.queueFull then .next (s.respond .full 0) else .next ((s.enqueue f).respond .ok 0) := by
  change execInject record s = _
  rw [execInject, unlessFaulted_of_clear hclear, if_pos hconf, hparse]

end

/-- Settles O15: the parser accepts the record, and what is left is whether the queue is full. -/
theorem injectQueuesEveryInjectableFrame : Obligations.InjectQueuesEveryInjectableFrame := by
  unfold Obligations.InjectQueuesEveryInjectableFrame
  intro s f hclear hconf hf
  have hparse : parseInject s.build f.record = .ok f := parseInject_ok_iff.mpr ⟨rfl, hf⟩
  rw [exec_inject_of_ok hclear hconf hparse]
  by_cases hfull : 1 ≤ s.build.qdepth ∧ s.q.length = s.build.qdepth
  · rw [if_pos (queueFull_iff.mpr hfull), if_pos hfull]
    rfl
  · rw [if_neg (mt queueFull_iff.mp hfull), if_neg hfull]
    rfl

/-- Settles O17: behind the shape of the Frame the parser makes three checks, in this order, and the three clauses are the
three ways to fail them. -/
theorem injectChecksFlagsThenLength : Obligations.InjectChecksFlagsThenLength := by
  unfold Obligations.InjectChecksFlagsThenLength
  intro s f extra hclear hconf hlegal
  refine ⟨?trailing, ?flags, ?length⟩
  case trailing =>
    intro hextra
    exact exec_inject_of_error hclear hconf (parseInject_of_trailing hlegal hextra)
  case flags =>
    intro hflags
    exact exec_inject_of_error hclear hconf (parseInject_of_bad_flags hlegal hflags)
  case length =>
    intro hephemeral hfiller hbits
    exact exec_inject_of_error hclear hconf (parseInject_of_length_mismatch hlegal hephemeral hfiller hbits)

end Sys2Proof.Machine
end

section
/-! SET_STATUS: which words decode to it (R54, R57, R59, R62), and what taking one does to the block (R99, R109). -/

namespace Sys2Proof

/-! ### The words of SET_STATUS -/

/-- What the decoder does with a word of opcode 0x5 (R57, R59). -/
theorem decode_of_setStatus_opcode {w : Word} (payload : List Byte) (ho : opcField w = 0x5) (hr : rsvField w = 0) :
    decode w payload =
      if (argField w).extractLsb' 1 23 = 0 then payloadless payload (.setStatus ((argField w).getLsbD 0))
      else .error .reservedArgument := by
  simp [decode, ho, hr]

/-- The reserved bits of a SET_STATUS operand are zero exactly when the operand is one bit, zero-extended (R57). -/
theorem extractLsb'_one_eq_zero_iff {a : BitVec 24} :
    a.extractLsb' 1 23 = 0 ↔ a = (BitVec.ofBool (a.getLsbD 0)).zeroExtend 24 := by
  constructor
  · intro hz
    have hhigh (i : Nat) (hi : i < 23) : a.getLsbD (1 + i) = false := by
      have hbit : (a.extractLsb' 1 23).getLsbD i = false := by rw [hz]; exact BitVec.getLsbD_zero
      rwa [BitVec.getLsbD_extractLsb', decide_eq_true hi, Bool.true_and] at hbit
    apply BitVec.eq_of_getLsbD_eq
    intro i hi
    cases i with
    | zero => simp
    | succ i => simp [← hhigh i (by omega), Nat.add_comm]
  · intro ha
    rw [ha]
    cases a.getLsbD 0 with
    | false => rfl
    | true => rfl

/-- The word of a SET_STATUS is 0x50000000 with the bit in bit 0 (R57, R60). -/
theorem encode_setStatus_word (bit : Bool) :
    (encode (.setStatus bit)).word = if bit then 0x50000001 else 0x50000000 := by
  cases bit with
  | false => rfl
  | true => rfl

/-- SET_STATUS is decoded from its own encoding, without a payload, and from nothing else (R57, R59). -/
theorem decode_eq_setStatus_iff {w : Word} {payload : List Byte} {bit : Bool} :
    decode w payload = .ok (.setStatus bit) ↔ w = (encode (.setStatus bit)).word ∧ payload = [] := by
  constructor
  · intro h
    obtain ⟨hop, hr⟩ := opcode_of_decode h
    rw [decode_of_setStatus_opcode payload hop hr, ite_reservedArgument_ok_iff, payloadless_ok_iff,
      Instr.setStatus.injEq, extractLsb'_one_eq_zero_iff] at h
    obtain ⟨harg, hp, rfl⟩ := h
    refine ⟨?_, hp⟩
    calc w = opcField w ++ rsvField w ++ argField w := (word_eq_fields w).symm
      _ = (encode (.setStatus ((argField w).getLsbD 0))).word := by rw [hop, hr, encode, Instr.argument, ← harg]
  · rintro ⟨rfl, rfl⟩
    cases bit with
    | false => rfl
    | true => rfl

/-- A word of opcode 0x5 with a reserved operand bit set is illegal (R57, R61). -/
theorem decode_setStatus_reservedArgument {arg : BitVec 24} (h : arg.extractLsb' 1 23 ≠ 0) (payload : List Byte) :
    decode ((0x5 : BitVec 4) ++ (0 : BitVec 4) ++ arg) payload = .error .reservedArgument := by
  rw [decode_of_setStatus_opcode payload (opcField_append ..) (rsvField_append ..), argField_append, if_neg h]

namespace Machine

/-! ### What SET_STATUS does -/

section
variable {s : State} (bit : Bool)

/-- R99: the status cell is written, and the response is OK; nothing is asked of the configuration. -/
theorem exec_setStatus_of_clear (h : s.faulted = false) :
    exec (.setStatus bit) s = .next ((s.writeStatusCell bit).respond .ok 0) :=
  unlessFaulted_of_clear h

/-- R99, R109: a faulted block ignores the command, and its status cell stays. -/
theorem exec_setStatus_of_faulted (h : s.faulted = true) : exec (.setStatus bit) s = .next (s.respond .ignored 0) :=
  unlessFaulted_of_faulted h

end

/-- Settles O21: `decode_eq_setStatus_iff` and `decode_setStatus_reservedArgument` say which words are a SET_STATUS, and the
fault-state check leaves the write of the cell or the response IGNORED. -/
theorem setStatusWritesTheCell : Obligations.SetStatusWritesTheCell := by
  unfold Obligations.SetStatusWritesTheCell
  refine ⟨?words, ?reserved, ?effect⟩
  case words =>
    intro w payload bit
    rw [← encode_setStatus_word]
    exact decode_eq_setStatus_iff
  case reserved =>
    intro arg harg
    exact decode_setStatus_reservedArgument harg []
  case effect =>
    intro s bit
    constructor
    · intro hclear
      exact ⟨exec_setStatus_of_clear bit hclear, statusWord_bi _⟩
    · exact exec_setStatus_of_faulted bit

end Machine

end Sys2Proof
end

section
/-! NOP: the one word that decodes to it (R54, R59, R60), and what carrying it out does (R102). -/

namespace Sys2Proof

/-! ### The word of NOP -/

/-- What the decoder does with a word of opcode 0x0 (R59). -/
theorem decode_of_nop_opcode {w : Word} (payload : List Byte) (ho : opcField w = 0x0) (hr : rsvField w = 0) :
    decode w payload = if argField w = 0 then payloadless payload .nop else .error .reservedArgument := by
  simp [decode, ho, hr]

/-- NOP is decoded from its own encoding, without a payload, and from nothing else (R59, R60). -/
theorem decode_eq_nop_iff {w : Word} {payload : List Byte} :
    decode w payload = .ok .nop ↔ w = (encode .nop).word ∧ payload = [] := by
  constructor
  · intro h
    obtain ⟨hop, hr⟩ := opcode_of_decode h
    rw [decode_of_nop_opcode payload hop hr, ite_reservedArgument_ok_iff, payloadless_ok_iff] at h
    obtain ⟨harg, hp, -⟩ := h
    refine ⟨?_, hp⟩
    calc w = opcField w ++ rsvField w ++ argField w := (word_eq_fields w).symm
      _ = (encode .nop).word := by rw [hop, hr, harg]; rfl
  · rintro ⟨rfl, rfl⟩
    rfl

/-- A word of opcode 0x0 with an operand bit set is illegal, whatever its payload (R59, R61). -/
theorem decode_nop_reservedArgument {arg : BitVec 24} (h : arg ≠ 0) (payload : List Byte) :
    decode ((0x0 : BitVec 4) ++ (0 : BitVec 4) ++ arg) payload = .error .reservedArgument := by
  rw [decode_of_nop_opcode payload (opcField_append ..) (rsvField_append ..), argField_append, if_neg h]

namespace Machine

/-- R102, as one record update: the response is OK with data 0, and nothing else changes. The fault state is not asked
for. -/
theorem exec_nop (s : State) :
    exec .nop s =
      .next { s with replies := s.replies ++ [{ port := s.port, code := .ok, data := 0, samples := [] }] } := rfl

/-- Settles O1: `decode_eq_nop_iff` and `decode_nop_reservedArgument` say which words are a NOP, and `exec_nop` what one
answers and leaves unchanged. -/
theorem nopAnswersOkAndChangesNothing : Obligations.NopAnswersOkAndChangesNothing := by
  unfold Obligations.NopAnswersOkAndChangesNothing
  refine ⟨?word, ?operand, ?effect⟩
  case word =>
    intro w payload
    exact decode_eq_nop_iff
  case operand =>
    intro arg harg
    exact decode_nop_reservedArgument harg []
  case effect => exact exec_nop

end Machine

end Sys2Proof
end

section
/-! An idle block (R117), fault entry (R106 to R108), and the fault state with its one end (R63, R109, R112). -/

namespace Sys2Proof.Machine

/-! ### With nothing to do -/

/-- Without a PULL in progress and without a command to come there is no next atomic step (R49, R117). -/
theorem nextTurn_of_idle {s : State} (hpull : s.pull = none) (hinputs : s.inputs = []) : nextTurn s = .idle := by
  simp [nextTurn, hpull, hinputs]

/-- Settles O42: the next turn is the idle one, at which a step keeps the state. -/
theorem idleBlockHoldsItsState : Obligations.IdleBlockHoldsItsState := by
  unfold Obligations.IdleBlockHoldsItsState
  intro s hpull hinputs
  rw [step, nextTurn_of_idle hpull hinputs]

/-! ### Fault entry -/

/-- Fault entry changes the fault record and the responses, and nothing else (R107, R108). -/
theorem raise_eq_afterFault (s : State) (opc : BitVec 4) (cause : Cause) :
    s.raise opc cause = s.afterFault opc cause.code := rfl

/-- The codes of R106 are 0x01 to 0x0E. -/
theorem Cause.code_range (cause : Cause) : 0x01 ≤ cause.code.toNat ∧ cause.code.toNat ≤ 0x0E := by
  cases cause <;> decide

/-- FrameAdvance leaves the fault record alone (R87). -/
theorem frameAdvance_keeps_faultRecord {s t : State} (h : s.frameAdvance = some t) :
    t.faulted = s.faulted ∧ t.faultCause = s.faultCause ∧ t.faultOpc = s.faultOpc := by
  obtain ⟨-, f, -, rfl⟩ := frameAdvance_some_iff.mp h
  simp

/-- No micro-step of a PULL touches the fault record: its EmitStep moves the cursor and the latch, and its FrameAdvance the
cursor, the injected Frame and the queue (R85, R87). -/
theorem pullMicroStep_keeps_faultRecord {r : PullRun} {s t : State} (h : pullMicroStep r s = .next t) :
    t.faulted = s.faulted ∧ t.faultCause = s.faultCause ∧ t.faultOpc = s.faultOpc := by
  obtain ⟨g, -, ⟨-, u, hadvance, rfl⟩ | ⟨-, v, u, -, rfl⟩⟩ := pullMicroStep_next_iff.mp h
  · simpa using frameAdvance_keeps_faultRecord hadvance
  · simp

section
variable {s t : State}

/-- All that CONFIGURE can do outside the fault state: raise a fault, or load a Superframe (R80). -/
theorem exec_configure_cases {image : List Byte} (hclear : s.faulted = false)
    (h : exec (.configure image) s = .next t) :
    (∃ cause, t = s.raise 0x2 cause) ∨ ∃ fs, t = (s.loadSuperframe fs).respond .ok 0 := by
  cases hconf : s.configured with
  | true =>
    change execConfigure image s = _ at h
    rw [execConfigure, unlessFaulted_of_clear hclear, if_pos hconf] at h
    exact .inl ⟨_, (Host.Outcome.next.inj h).symm⟩
  | false =>
    cases hparse : parseSuperframe s.build image with
    | error cause =>
      rw [exec_configure_of_error hclear hconf hparse] at h
      exact .inl ⟨cause, (Host.Outcome.next.inj h).symm⟩
    | ok fs =>
      rw [exec_configure_of_ok hclear hconf hparse] at h
      exact .inr ⟨fs, (Host.Outcome.next.inj h).symm⟩

/-- All that INJECT can do outside the fault state: raise a fault, answer FULL, or queue a Frame (R94, R96). -/
theorem exec_inject_cases {record : List Byte} (hclear : s.faulted = false)
    (h : exec (.inject record) s = .next t) :
    (∃ cause, t = s.raise 0x4 cause) ∨ t = s.respond .full 0 ∨ ∃ f, t = (s.enqueue f).respond .ok 0 := by
  cases hconf : s.configured with
  | false =>
    change execInject record s = _ at h
    rw [execInject, unlessFaulted_of_clear hclear, hconf] at h
    exact .inl ⟨_, (Host.Outcome.next.inj h).symm⟩
  | true =>
    cases hparse : parseInject s.build record with
    | error cause =>
      rw [exec_inject_of_error hclear hconf hparse] at h
      exact .inl ⟨cause, (Host.Outcome.next.inj h).symm⟩
    | ok f =>
      rw [exec_inject_of_ok hclear hconf hparse] at h
      split at h
      · exact .inr (.inl (Host.Outcome.next.inj h).symm)
      · exact .inr (.inr ⟨f, (Host.Outcome.next.inj h).symm⟩)

/-- All that the step of a PULL command can do outside the fault state: raise a fault, end the PULL at once, or take its first
micro-step (R84). -/
theorem exec_pull_cases {n : Nat} (hclear : s.faulted = false) (h : exec (.pull n) s = .next t) :
    t = s.raise 0x3 .notConfigured ∨ (∃ r, t = s.finishPull r) ∨ ∃ r, pullMicroStep r s = .next t := by
  change execPull n s = _ at h
  rw [execPull, unlessFaulted_of_clear hclear] at h
  cases hconf : s.configured with
  | false =>
    rw [hconf] at h
    exact .inl (Host.Outcome.next.inj h).symm
  | true =>
    rw [if_pos hconf, beginPull] at h
    split at h
    · exact .inr (.inl ⟨_, (Host.Outcome.next.inj h).symm⟩)
    · exact .inr (.inr ⟨_, h⟩)

/-- A command carried out outside the fault state either is a fault entry with its own opcode or leaves the block outside the
fault state (R106 to R108). -/
theorem exec_raises_or_stays_clear {i : Instr} (hclear : s.faulted = false) (h : exec i s = .next t) :
    (∃ cause, t = s.raise i.opcode cause) ∨ t.faulted = false := by
  cases i with
  | nop =>
    obtain rfl : s.respond .ok 0 = t := Host.Outcome.next.inj h
    exact .inr hclear
  | reset =>
    obtain rfl : s.resetBlock.respond .ok 0 = t := Host.Outcome.next.inj h
    exact .inr rfl
  | configure image =>
    obtain hraise | ⟨fs, rfl⟩ := exec_configure_cases hclear h
    · exact .inl hraise
    · exact .inr hclear
  | pull n =>
    obtain rfl | ⟨r, rfl⟩ | ⟨r, hmicro⟩ := exec_pull_cases hclear h
    · exact .inl ⟨_, rfl⟩
    · exact .inr hclear
    · obtain ⟨hfaulted, -, -⟩ := pullMicroStep_keeps_faultRecord hmicro
      exact .inr (hfaulted.trans hclear)
  | inject record =>
    obtain hraise | rfl | ⟨f, rfl⟩ := exec_inject_cases hclear h
    · exact .inl hraise
    · exact .inr hclear
    · exact .inr hclear
  | setStatus bit =>
    rw [exec_setStatus_of_clear bit hclear] at h
    obtain rfl := Host.Outcome.next.inj h
    exact .inr hclear
  | readReg reg =>
    obtain rfl : s.respond .ok (s.regValue reg) = t := Host.Outcome.next.inj h
    exact .inr hclear

end

/-- Settles O25: `exec_raises_or_stays_clear` for the commands, the step of an illegal word, and
`pullMicroStep_keeps_faultRecord` for the micro-steps. -/
theorem faultEntryChangesOnlyTheFaultRecord : Obligations.FaultEntryChangesOnlyTheFaultRecord := by
  unfold Obligations.FaultEntryChangesOnlyTheFaultRecord
  refine ⟨?command, ?illegal, ?micro⟩
  case command =>
    intro i s t hclear h hfaulted
    obtain ⟨cause, rfl⟩ | hstays := exec_raises_or_stays_clear hclear h
    · obtain ⟨hmin, hmax⟩ := cause.code_range
      exact ⟨cause.code, hmin, hmax, raise_eq_afterFault s i.opcode cause⟩
    · rw [hstays] at hfaulted
      contradiction
  case illegal =>
    intro s t p c rest e hclear htakes hd h
    rw [step_of_decode_error htakes hd, execIllegal_of_clear _ (s := s.accept p rest) hclear] at h
    exact (Host.Outcome.next.inj h).symm
  case micro =>
    intro r s t h
    exact pullMicroStep_keeps_faultRecord h

/-! ### In the fault state -/

section
variable {s t : State}

/-- A faulted block ignores every command but NOP, RESET and READ_REG (R63, R109). -/
theorem exec_of_faulted {i : Instr} (hfaulted : s.faulted = true) (hnop : i ≠ .nop) (hreset : i ≠ .reset)
    (hread : ∀ reg, i ≠ .readReg reg) : exec i s = .next (s.respond .ignored 0) := by
  cases i with
  | nop => exact absurd rfl hnop
  | reset => exact absurd rfl hreset
  | readReg reg => exact absurd rfl (hread reg)
  | configure image => exact unlessFaulted_of_faulted hfaulted
  | pull n => exact unlessFaulted_of_faulted hfaulted
  | inject record => exact unlessFaulted_of_faulted hfaulted
  | setStatus bit => exact exec_setStatus_of_faulted bit hfaulted

/-- A faulted block ignores an illegal command too (R63). -/
theorem execIllegal_of_faulted (opc : BitVec 4) (hfaulted : s.faulted = true) :
    execIllegal opc s = .next (s.respond .ignored 0) :=
  unlessFaulted_of_faulted hfaulted

/-- All that a command can do in the fault state: a RESET resets the block, and every other one adds its response (R63,
R112). -/
theorem exec_cases_of_faulted {i : Instr} (hfaulted : s.faulted = true) (h : exec i s = .next t) :
    (∃ code data, t = s.respond code data) ∨ (i = .reset ∧ t = s.resetBlock.respond .ok 0) := by
  by_cases hreset : i = .reset
  · subst hreset
    exact .inr ⟨rfl, (Host.Outcome.next.inj h).symm⟩
  by_cases hnop : i = .nop
  · subst hnop
    exact .inl ⟨.ok, 0, (Host.Outcome.next.inj h).symm⟩
  by_cases hread : ∃ reg, i = .readReg reg
  · obtain ⟨reg, rfl⟩ := hread
    exact .inl ⟨.ok, s.regValue reg, (Host.Outcome.next.inj h).symm⟩
  · rw [exec_of_faulted hfaulted hnop hreset (not_exists.mp hread)] at h
    exact .inl ⟨.ignored, 0, (Host.Outcome.next.inj h).symm⟩

/-- All that a step can do in the fault state: move on in the interleaving, end the PULL in progress without a sample, answer a
command without samples, or reset the block for a RESET (R63, R109, R112). -/
theorem step_cases_of_faulted (hfaulted : s.faulted = true) (h : step s = .next t) :
    (∃ ins, t = s.withInputs ins) ∨
    (∃ r ins, t = (s.withInputs ins).ignorePull r) ∨
    (∃ p rest code data, t = (s.accept p rest).respond code data) ∨
    (∃ p c rest, TakesCommand s p c rest ∧ decode c.word c.payload = .ok .reset ∧
      t = (s.accept p rest).resetBlock.respond .ok 0) := by
  obtain ⟨-, -, rfl⟩ | ⟨rest, -, -, rfl⟩ | ⟨r, ins, -, -, hresume⟩ | ⟨p, c, rest, e, -, -, hillegal⟩ |
    ⟨p, c, rest, i, htakes, hd, hexec⟩ := step_cases h
  · exact .inl ⟨t.inputs, rfl⟩
  · exact .inl ⟨rest, rfl⟩
  · rw [resumePull_of_faulted (s := s.withInputs ins) hfaulted] at hresume
    exact .inr (.inl ⟨r, ins, (Host.Outcome.next.inj hresume).symm⟩)
  · rw [execIllegal_of_faulted _ (s := s.accept p rest) hfaulted] at hillegal
    exact .inr (.inr (.inl ⟨p, rest, .ignored, 0, (Host.Outcome.next.inj hillegal).symm⟩))
  · obtain ⟨code, data, rfl⟩ | ⟨rfl, rfl⟩ := exec_cases_of_faulted (s := s.accept p rest) hfaulted hexec
    · exact .inr (.inr (.inl ⟨p, rest, code, data, rfl⟩))
    · exact .inr (.inr (.inr ⟨p, c, rest, htakes, hd, rfl⟩))

/-- A step in the fault state answers nothing, or gives one response, without samples (R109). -/
theorem replies_of_step_of_faulted (hfaulted : s.faulted = true) (h : step s = .next t) :
    t.replies = s.replies ∨ ∃ rep : Reply, rep.samples = [] ∧ t.replies = s.replies ++ [rep] := by
  obtain ⟨ins, rfl⟩ | ⟨r, ins, rfl⟩ | ⟨p, rest, code, data, rfl⟩ | ⟨p, c, rest, -, -, rfl⟩ :=
    step_cases_of_faulted hfaulted h
  · exact .inl rfl
  · exact .inr ⟨_, rfl, State.ignorePull_replies ..⟩
  · exact .inr ⟨_, rfl, State.respond_replies ..⟩
  · exact .inr ⟨_, rfl, State.respond_replies ..⟩

/-- No response given in the fault state holds a sample (R109). -/
theorem newReplies_samples_of_faulted (hfaulted : s.faulted = true) (h : step s = .next t) :
    ∀ rep ∈ newReplies s t, rep.samples = [] := by
  obtain hsame | ⟨rep, hempty, happend⟩ := replies_of_step_of_faulted hfaulted h
  · simp [newReplies, hsame]
  · simp [newReplies, happend, hempty]

/-- A step in the fault state keeps the PULL in progress as it is, or ends it (R109). -/
theorem pull_of_step_of_faulted (hfaulted : s.faulted = true) (h : step s = .next t) : t.pull = s.pull ∨ t.pull = none := by
  obtain ⟨ins, rfl⟩ | ⟨r, ins, rfl⟩ | ⟨p, rest, code, data, rfl⟩ | ⟨p, c, rest, -, -, rfl⟩ :=
    step_cases_of_faulted hfaulted h
  · exact .inl rfl
  · exact .inr rfl
  · exact .inl rfl
  · exact .inr rfl

/-- A step in the fault state keeps the fault record and the queue, or carries out a RESET (R109, R112). -/
theorem faultRecord_and_queue_of_step_of_faulted (hfaulted : s.faulted = true) (h : step s = .next t) :
    (t.faulted = true ∧ t.faultCause = s.faultCause ∧ t.faultOpc = s.faultOpc ∧ t.q = s.q) ∨
    (∃ p c rest, TakesCommand s p c rest ∧ decode c.word c.payload = .ok .reset ∧
      t = (s.accept p rest).resetBlock.respond .ok 0) := by
  obtain ⟨ins, rfl⟩ | ⟨r, ins, rfl⟩ | ⟨p, rest, code, data, rfl⟩ | hreset := step_cases_of_faulted hfaulted h
  · exact .inl ⟨hfaulted, rfl, rfl, rfl⟩
  · exact .inl ⟨hfaulted, rfl, rfl, rfl⟩
  · exact .inl ⟨hfaulted, rfl, rfl, rfl⟩
  · exact .inr hreset

end

/-- Settles O26: a faulted block keeps its fault record until a RESET, which gives every field its reset value. -/
theorem onlyResetEndsTheFaultState : Obligations.OnlyResetEndsTheFaultState := by
  unfold Obligations.OnlyResetEndsTheFaultState
  intro s t hfaulted h
  obtain ⟨hstays, hcause, hopc, -⟩ | ⟨p, c, rest, htakes, hd, rfl⟩ :=
    faultRecord_and_queue_of_step_of_faulted hfaulted h
  · exact .inl ⟨hstays, hcause, hopc⟩
  · refine .inr ⟨rfl, rfl, rfl, rfl, rfl, rfl, rfl, rfl, rfl, rfl, rfl, rfl, rfl, ?_⟩
    exact ⟨p, c, rest, htakes, hd⟩

/-- Settles O23: `exec_of_faulted` and `execIllegal_of_faulted` say what is ignored, and the ways a faulted block can step
leave no room for a sample or a queued Frame. -/
theorem faultedBlockIgnoresCommands : Obligations.FaultedBlockIgnoresCommands := by
  unfold Obligations.FaultedBlockIgnoresCommands
  intro s hfaulted
  refine ⟨?command, ?illegal, ?step⟩
  case command =>
    intro i hnop hreset hread
    exact exec_of_faulted hfaulted hnop hreset hread
  case illegal =>
    intro p c rest e htakes hd
    rw [step_of_decode_error htakes hd, execIllegal_of_faulted _ (s := s.accept p rest) hfaulted]
    rfl
  case step =>
    intro t h
    refine ⟨newReplies_samples_of_faulted hfaulted h, ?pull, ?queue⟩
    case pull =>
      intro r hr
      obtain hkept | hended := pull_of_step_of_faulted hfaulted h
      · rw [← hkept, hr]
      · rw [hended] at hr
        contradiction
    case queue =>
      obtain ⟨hstays, -, -, hq⟩ | ⟨p, c, rest, htakes, hd, rfl⟩ := faultRecord_and_queue_of_step_of_faulted hfaulted h
      · exact .inl ⟨hstays, hq⟩
      · exact .inr ⟨rfl, p, c, rest, htakes, hd⟩

end Sys2Proof.Machine
end

section
/-! RESET: the one word that decodes to it (R54, R59, R60), and the reset values that power-on and RESET give the block
(R38, R103, R118). -/

namespace Sys2Proof

/-! ### The word of RESET -/

/-- What the decoder does with a word of opcode 0x1 (R59). -/
theorem decode_of_reset_opcode {w : Word} (payload : List Byte) (ho : opcField w = 0x1) (hr : rsvField w = 0) :
    decode w payload = if argField w = 0 then payloadless payload .reset else .error .reservedArgument := by
  simp [decode, ho, hr]

/-- RESET is decoded from its own encoding, without a payload, and from nothing else (R59, R60). -/
theorem decode_eq_reset_iff {w : Word} {payload : List Byte} :
    decode w payload = .ok .reset ↔ w = (encode .reset).word ∧ payload = [] := by
  constructor
  · intro h
    obtain ⟨hop, hr⟩ := opcode_of_decode h
    rw [decode_of_reset_opcode payload hop hr, ite_reservedArgument_ok_iff, payloadless_ok_iff] at h
    obtain ⟨harg, hp, -⟩ := h
    refine ⟨?_, hp⟩
    calc w = opcField w ++ rsvField w ++ argField w := (word_eq_fields w).symm
      _ = (encode .reset).word := by rw [hop, hr, harg]; rfl
  · rintro ⟨rfl, rfl⟩
    rfl

namespace Machine

/-- RESET resets the block and answers OK, whether the block is faulted or not (R103). -/
theorem exec_reset (s : State) : exec .reset s = .next (s.resetBlock.respond .ok 0) := rfl

/-- Settles O2: `decode_eq_reset_iff` says which word is a RESET, `exec_reset` which state it leaves, and in that state and
in the one of power-on every field of the block has its value of R38. -/
theorem powerOnAndResetGiveResetValues : Obligations.PowerOnAndResetGiveResetValues := by
  unfold Obligations.PowerOnAndResetGiveResetValues
  refine ⟨?word, ?effect⟩
  case word =>
    intro w payload
    exact decode_eq_reset_iff
  case effect =>
    intro b s
    refine ⟨s.resetBlock.respond .ok 0, exec_reset s, ?reply, ?build, rfl, ?values⟩
    case reply => simp
    case build => simp
    case values =>
      intro u hu
      obtain rfl | rfl := List.mem_pair.mp hu
      · simp
      · simp [State.powerOn]

end Machine

end Sys2Proof
end

section
/-! The decoder and the encoder are inverse on the well-formed commands (R54 to R62). -/

namespace Sys2Proof

/-! ### The words of CONFIGURE, PULL and INJECT -/

/-- What the decoder does with a word of opcode 0x2 (R59). -/
theorem decode_of_configure_opcode {w : Word} (payload : List Byte) (ho : opcField w = 0x2) (hr : rsvField w = 0) :
    decode w payload = if argField w = 0 then .ok (.configure payload) else .error .reservedArgument := by
  simp [decode, ho, hr]

/-- What the decoder does with a word of opcode 0x3 (R56, R59). -/
theorem decode_of_pull_opcode {w : Word} (payload : List Byte) (ho : opcField w = 0x3) (hr : rsvField w = 0) :
    decode w payload = payloadless payload (.pull (argField w).toNat) := by
  simp [decode, ho, hr]

/-- What the decoder does with a word of opcode 0x4 (R59). -/
theorem decode_of_inject_opcode {w : Word} (payload : List Byte) (ho : opcField w = 0x4) (hr : rsvField w = 0) :
    decode w payload = if argField w = 0 then .ok (.inject payload) else .error .reservedArgument := by
  simp [decode, ho, hr]

/-! ### Register numbers (R32 to R37) -/

/-- The register of a number has that number. -/
@[simp] theorem Reg.number_ofNumber (number : Nat) : (Reg.ofNumber number).number = number := by
  unfold Reg.ofNumber
  split <;> rfl

/-- Every register number of eight bits names a register a READ_REG can carry. -/
theorem Reg.wellFormed_ofNumber {number : Nat} (h : number ≤ 0xFF) : (Reg.ofNumber number).wellFormed = true := by
  by_cases hlow : number < 0x0A
  · interval_cases number <;> rfl
  · rw [Reg.ofNumber_of_le (Nat.not_lt.mp hlow)]
    exact decide_eq_true ⟨Nat.not_lt.mp hlow, h⟩

/-- A well-formed register is the one its number names. -/
theorem Reg.ofNumber_number {reg : Reg} (h : reg.wellFormed = true) : Reg.ofNumber reg.number = reg := by
  cases reg with
  | reserved number => exact Reg.ofNumber_of_le (of_decide_eq_true h).1
  | _ => rfl

/-- A well-formed register's number fits the eight bits of its field (R58). -/
theorem Reg.number_le {reg : Reg} (h : reg.wellFormed = true) : reg.number ≤ 0xFF := by
  cases reg with
  | reserved number => exact (of_decide_eq_true h).2
  | _ => decide

/-! ### Decode, then encode -/

/-- The word of a command is its three fields (R54). -/
theorem encode_word (i : Instr) : (encode i).word = i.opcode ++ (0 : BitVec 4) ++ i.argument := rfl

/-- The READ_REG word of a register number is the encoding of the register it names (R58). -/
theorem encode_readReg_ofNumber_word (n : BitVec 8) :
    (encode (.readReg (Reg.ofNumber n.toNat))).word = (0x600000 : BitVec 24) ++ n := by
  rw [encode_word, readRegWord_eq_fields]
  congr 1
  change BitVec.ofNat 24 (Reg.ofNumber n.toNat).number = _
  rw [Reg.number_ofNumber]
  apply BitVec.eq_of_toNat_eq
  rw [BitVec.toNat_ofNat, Nat.mod_eq_of_lt (n.isLt.trans (by decide))]
  refine Eq.trans ?_ (BitVec.toNat_append (0 : BitVec 16) n).symm
  simp

/-- The operand and the payload of a decoded command are those of its words, and they are in range (R56 to R59). -/
theorem operands_of_decode {w : Word} {payload : List Byte} {i : Instr} (h : decode w payload = .ok i) :
    i.wellFormed = true ∧ argField w = i.argument ∧ payload = i.payload := by
  obtain ⟨hop, hr⟩ := opcode_of_decode h
  cases i with
  | nop =>
    obtain ⟨rfl, rfl⟩ := decode_eq_nop_iff.mp h
    exact ⟨rfl, rfl, rfl⟩
  | reset =>
    obtain ⟨rfl, rfl⟩ := decode_eq_reset_iff.mp h
    exact ⟨rfl, rfl, rfl⟩
  | configure image =>
    rw [decode_of_configure_opcode payload hop hr, ite_reservedArgument_ok_iff, Except.ok.injEq,
      Instr.configure.injEq] at h
    exact ⟨rfl, h⟩
  | pull count =>
    rw [decode_of_pull_opcode payload hop hr, payloadless_ok_iff, Instr.pull.injEq] at h
    obtain ⟨hp, rfl⟩ := h
    have hlt := (argField w).isLt
    exact ⟨decide_eq_true (by omega), ((BitVec.ofNat_toNat ..).trans (BitVec.setWidth_eq _)).symm, hp⟩
  | inject record =>
    rw [decode_of_inject_opcode payload hop hr, ite_reservedArgument_ok_iff, Except.ok.injEq, Instr.inject.injEq] at h
    exact ⟨rfl, h⟩
  | setStatus bit =>
    obtain ⟨rfl, rfl⟩ := decode_eq_setStatus_iff.mp h
    exact ⟨rfl, argField_append .., rfl⟩
  | readReg reg =>
    obtain ⟨n, rfl, rfl, rfl⟩ := decode_eq_readReg_iff.mp h
    refine ⟨Reg.wellFormed_ofNumber (Nat.le_of_lt_succ n.isLt), ?_, rfl⟩
    rw [← encode_readReg_ofNumber_word]
    exact argField_append ..

/-- Settles O56: a word is its three fields, and the decoder reads each of them into the command. -/
theorem encodeWritesEveryDecodedWord : Obligations.EncodeWritesEveryDecodedWord := by
  unfold Obligations.EncodeWritesEveryDecodedWord
  intro w payload i h
  obtain ⟨hop, hr⟩ := opcode_of_decode h
  obtain ⟨hwf, harg, hp⟩ := operands_of_decode h
  have hword : (encode i).word = w :=
    calc (encode i).word = i.opcode ++ (0 : BitVec 4) ++ i.argument := encode_word i
      _ = opcField w ++ rsvField w ++ argField w := by rw [hop, hr, harg]
      _ = w := word_eq_fields w
  exact ⟨hwf, congrArg₂ Command.mk hword hp.symm⟩

/-! ### Encode, then decode -/

/-- The decoder reads every well-formed command back from its own words (R62). -/
theorem decode_encode {i : Instr} (h : i.wellFormed = true) : decode (encode i).word (encode i).payload = .ok i := by
  have hop : opcField (encode i).word = i.opcode := opcField_append ..
  have hr : rsvField (encode i).word = 0 := rsvField_append ..
  have harg : argField (encode i).word = i.argument := argField_append ..
  cases i with
  | nop => rfl
  | reset => rfl
  | configure image => rw [decode_of_configure_opcode _ hop hr, harg]; rfl
  | inject record => rw [decode_of_inject_opcode _ hop hr, harg]; rfl
  | setStatus bit => exact decode_eq_setStatus_iff.mpr ⟨rfl, rfl⟩
  | pull count =>
    have hcount : count ≤ 0xFFFFFF := of_decide_eq_true h
    rw [decode_of_pull_opcode _ hop hr, harg]
    refine payloadless_ok_iff.mpr ⟨rfl, congrArg Instr.pull ?_⟩
    exact Nat.mod_eq_of_lt (by omega)
  | readReg reg =>
    have hn : (BitVec.ofNat 8 reg.number).toNat = reg.number :=
      Nat.mod_eq_of_lt (Nat.lt_succ_of_le (Reg.number_le h))
    have hreg : Reg.ofNumber (BitVec.ofNat 8 reg.number).toNat = reg := by rw [hn, Reg.ofNumber_number h]
    refine decode_eq_readReg_iff.mpr ⟨BitVec.ofNat 8 reg.number, ?_, rfl, hreg.symm⟩
    rw [← encode_readReg_ofNumber_word, hreg]

/-- Settles O55: `decode_encode`. -/
theorem decodeReadsEveryEncodedCommand : Obligations.DecodeReadsEveryEncodedCommand := by
  unfold Obligations.DecodeReadsEveryEncodedCommand
  intro i h
  exact decode_encode h

/-- Settles O58: each word is that of its command, which the decoder reads back. -/
theorem opcodeMapWordsDecode : Obligations.OpcodeMapWordsDecode := by
  unfold Obligations.OpcodeMapWordsDecode
  refine ⟨decode_encode (i := .nop) rfl, decode_encode (i := .reset) rfl, ?configure, ?pull, ?inject,
    decode_encode (i := .setStatus true) rfl, decode_encode (i := .readReg .qLevel) rfl⟩
  case configure => exact decode_encode (i := .configure [0x00, 0x00]) rfl
  case pull => exact decode_encode (i := .pull 16777215) rfl
  case inject => exact decode_encode (i := .inject [0x40]) rfl

end Sys2Proof
end

section
/-! The image parser in front of a fault: behind the records of good Segments and good Frames it goes on as at the start of a
record, and a payload that ends inside a record is truncated (R72, R73, R77). -/

namespace Sys2Proof.Machine

/-! ### Checks and header words -/

/-- The parser's plumbing, as a fault: the first part raises it, or the second part does behind a good first one. -/
theorem parsed_bind_error_iff {α β : Type} {x : Parsed α} {f : α → Parsed β} {c : Cause} :
    (x >>= f) = .error c ↔ x = .error c ∨ ∃ a, x = .ok a ∧ f a = .error c := by
  cases x <;> simp [bind, Except.bind]

theorem require_error_iff {p : Bool} {c d : Cause} : require p c = .error d ↔ p = false ∧ c = d := by
  cases p <;> simp [require]

/-- A payload that ends inside a header word is truncated (R72). -/
theorem take32_of_short {bytes : List Byte} (h : bytes.length < 4) : take32 bytes = .error .imageTruncated :=
  take32_error_iff.mpr ⟨h, rfl⟩

/-- A proper initial part of a header word and what follows ends inside the word, or behind it. -/
theorem cut_of_wordBytes_append {w : Word} {bytes tail : List Byte} (h : bytes <+: wordBytes w ++ tail) :
    bytes.length < 4 ∨ ∃ part, bytes = wordBytes w ++ part ∧ part <+: tail := by
  obtain hlen | hlen := Nat.lt_or_ge bytes.length 4
  · exact .inl hlen
  · have hfront : wordBytes w <+: bytes :=
      List.prefix_of_prefix_length_le (List.prefix_append ..) h hlen
    obtain ⟨part, rfl⟩ := hfront
    exact .inr ⟨part, rfl, (List.prefix_append_right_inj _).mp h⟩

/-! ### Segment records -/

section
variable {b : Build}

/-- A payload that ends inside the record of a legal Segment is truncated (R72, R76). -/
theorem parseSegment_of_cut {last : Bool} {g : Segment} {bytes : List Byte} (hg : g.Legal b)
    (hcut : bytes <+: g.record) (hne : bytes ≠ g.record) : parseSegment b last bytes = .error .imageTruncated := by
  obtain hshort | ⟨part, rfl, hpart⟩ := cut_of_wordBytes_append hcut
  · rw [parseSegment, take32_of_short hshort, parsed_error_bind]
  · have hlt : part.length < g.samples.length := by
      refine lt_of_le_of_ne (by simpa using hpart.length_le) fun heq => hne ?_
      rw [Segment.record, hpart.eq_of_length (by simpa using heq)]
    obtain ⟨hstatus, heob, hmessage⟩ := hg
    cases hk : g.kind with
    | status => rw [(hstatus hk).2] at hlt; exact absurd hlt (Nat.not_lt_zero _)
    | eob => rw [(heob hk).2] at hlt; exact absurd hlt (Nat.not_lt_zero _)
    | message =>
      obtain ⟨hpos, hmax, hlen, -⟩ := hmessage hk
      have hcount : (BitVec.ofNat 16 g.nbits).toNat = g.nbits := Nat.mod_eq_of_lt (by omega)
      have hbits : (g.nbits != 0) = true := bne_iff_ne.mpr (by omega)
      have hmissing : ¬2 * g.nbits * b.os ≤ part.length := by omega
      simp only [parseSegment, take32_wordBytes, parsed_ok_bind, headerReserved_of_header, decide_true, require_true,
        headerKind_of_header, headerCount_of_header, hcount, hbits, takeSamples, decide_eq_false hmissing, require_false,
        parsed_error_bind]

/-- Behind the records of good Segments that are no EOB the loop goes on as at its start (R73). -/
theorem parseSegments_append {good : List Segment} (hgood : ∀ x ∈ good, x.Legal b ∧ x.kind ≠ .eob) (left : Nat)
    (bytes : List Byte) :
    parseSegments b (good.length + left) (good.flatMap Segment.record ++ bytes) = (do
      let (gs, rest) ← parseSegments b left bytes
      .ok (good ++ gs, rest)) := by
  induction good with
  | nil =>
    simp only [List.length_nil, Nat.zero_add, List.flatMap_nil, List.nil_append]
    cases parseSegments b left bytes <;> rfl
  | cons g good ih =>
    obtain ⟨⟨hg, hk⟩, hrest⟩ := List.forall_mem_cons.mp hgood
    have hfirst (last : Bool) (tail : List Byte) : parseSegment b last (g.record ++ tail) = .ok (g, tail) :=
      parseSegment_ok_iff.mpr ⟨rfl, hg, fun he => absurd he hk⟩
    rw [List.length_cons, Nat.add_right_comm, List.flatMap_cons, List.append_assoc, parseSegments, hfirst,
      parsed_ok_bind]
    simp only [ih hrest]
    cases parseSegments b left bytes <;> rfl

/-- A fault of the segment record that follows good Segments is the fault of the loop (R73). -/
theorem parseSegments_of_bad {good : List Segment} {n : Nat} {bytes : List Byte} {cause : Cause}
    (hgood : ∀ x ∈ good, x.Legal b ∧ x.kind ≠ .eob) (hn : good.length < n)
    (hbad : parseSegment b (good.length + 1 = n) bytes = .error cause) :
    parseSegments b n (good.flatMap Segment.record ++ bytes) = .error cause := by
  obtain ⟨left, rfl⟩ := Nat.exists_eq_add_of_lt hn
  have hlast : decide (good.length + 1 = good.length + left + 1) = decide (left = 0) :=
    decide_eq_decide.mpr (by omega)
  rw [Nat.add_assoc, parseSegments_append hgood, parseSegments, ← hlast, hbad]
  rfl

/-- A payload that ends inside the segment records of a Frame is truncated (R72, R73). -/
theorem parseSegments_of_cut {gs : List Segment} {bytes : List Byte} (hlegal : ∀ g ∈ gs, g.Legal b)
    (honly : ∀ g ∈ gs.dropLast, g.kind ≠ .eob) (hcut : bytes <+: gs.flatMap Segment.record)
    (hne : bytes ≠ gs.flatMap Segment.record) : parseSegments b gs.length bytes = .error .imageTruncated := by
  induction gs generalizing bytes with
  | nil => exact absurd (List.prefix_nil.mp hcut) hne
  | cons g gs ih =>
    obtain ⟨hg, hrest⟩ := List.forall_mem_cons.mp hlegal
    rw [List.flatMap_cons] at hcut hne
    rw [List.length_cons, parseSegments]
    by_cases hwhole : g.record <+: bytes
    · obtain ⟨part, rfl⟩ := hwhole
      have hfirst : parseSegment b (decide (gs.length = 0)) (g.record ++ part) = .ok (g, part) := by
        refine parseSegment_ok_iff.mpr ⟨rfl, hg, fun he => decide_eq_true ?_⟩
        by_contra hlen
        obtain ⟨g', gs', rfl⟩ := List.exists_cons_of_ne_nil (mt List.length_eq_zero_iff.mpr hlen)
        exact honly g (by simp) he
      have honly' : ∀ x ∈ gs.dropLast, x.kind ≠ .eob := by
        cases gs with
        | nil => simp
        | cons g' gs' => exact fun x hx => honly x (List.mem_cons_of_mem _ hx)
      have htail := ih hrest honly' ((List.prefix_append_right_inj _).mp hcut) fun h => hne (by rw [h])
      simp only [hfirst, parsed_ok_bind, htail, parsed_error_bind]
    · have hinside : bytes <+: g.record := (List.prefix_or_prefix_of_prefix hcut (List.prefix_append ..)).resolve_right hwhole
      rw [parseSegment_of_cut hg hinside fun h => hwhole (by rw [h])]
      rfl

end

/-! ### Frame records -/

section
variable {b : Build}

/-- Behind a frame header in order, the loop over its Segments and the check that the last one is an EOB are left (R73). -/
theorem parseFrame_of_header {h : Word} (hreserved : headerReserved h = 0) (hpos : headerCount h ≠ 0)
    (hmax : headerCount h ≤ b.maxSegs) (tail : List Byte) :
    parseFrame b (wordBytes h ++ tail) = (do
      let (segs, bytes) ← parseSegments b (headerCount h) tail
      require (endsInEob segs) .badFrameStructure
      .ok ({ filler := h.getLsbD 31, ephemeral := h.getLsbD 30, segs := segs }, bytes)) := by
  simp only [parseFrame, take32_wordBytes, parsed_ok_bind, hreserved, decide_true, require_true, bne_iff_ne.mpr hpos,
    decide_eq_true hmax]

/-- The header of a legal Frame's record passes the checks of R73. -/
theorem frameHeader_count_of_legal {f : Frame} (hf : f.Legal b) :
    headerCount f.header = f.segs.length ∧ f.segs.length ≠ 0 ∧ f.segs.length ≤ b.maxSegs := by
  obtain ⟨hlen, ⟨heob, -⟩, -⟩ := hf
  have hmax := b.maxSegs_range.2
  refine ⟨?_, mt List.length_eq_zero_iff.mp (endsInEob_ne_nil heob), hlen⟩
  rw [frameHeader_count]
  exact Nat.mod_eq_of_lt (by omega)

/-- A payload that ends inside the record of a legal Frame is truncated (R72, R73). -/
theorem parseFrame_of_cut {f : Frame} {bytes : List Byte} (hf : f.Legal b) (hcut : bytes <+: f.record)
    (hne : bytes ≠ f.record) : parseFrame b bytes = .error .imageTruncated := by
  obtain ⟨hcount, hpos, hmax⟩ := frameHeader_count_of_legal hf
  obtain hshort | ⟨part, rfl, hpart⟩ := cut_of_wordBytes_append hcut
  · rw [parseFrame, take32_of_short hshort, parsed_error_bind]
  · obtain ⟨-, ⟨-, honly⟩, hlegal⟩ := hf
    rw [parseFrame_of_header (frameHeader_reserved f) (hcount ▸ hpos) (hcount ▸ hmax), hcount,
      parseSegments_of_cut hlegal honly hpart fun h => hne (by rw [Frame.record, h]), parsed_error_bind]

/-- Behind the records of good Frames that fit the frame store the loop goes on as at its start (R77). -/
theorem parseFrames_append {good : List Frame} (hgood : ∀ f ∈ good, f.Legal b ∧ f.ephemeral = false) (left store : Nat)
    (hstore : store + (good.map Frame.storeBytes).sum ≤ b.frameStoreBytes) (bytes : List Byte) :
    parseFrames b (good.length + left) store (good.flatMap Frame.record ++ bytes) = (do
      let (fs, rest) ← parseFrames b left (store + (good.map Frame.storeBytes).sum) bytes
      .ok (good ++ fs, rest)) := by
  induction good generalizing store with
  | nil =>
    simp only [List.length_nil, Nat.zero_add, List.flatMap_nil, List.nil_append, List.map_nil, List.sum_nil, Nat.add_zero]
    cases parseFrames b left store bytes <;> rfl
  | cons f good ih =>
    obtain ⟨⟨hf, he⟩, hrest⟩ := List.forall_mem_cons.mp hgood
    rw [List.map_cons, List.sum_cons] at hstore
    have hfirst (tail : List Byte) : parseFrame b (f.record ++ tail) = .ok (f, tail) := parseFrame_ok_iff.mpr ⟨rfl, hf⟩
    have hfits : store + f.storeBytes ≤ b.frameStoreBytes := by omega
    rw [List.length_cons, Nat.add_right_comm, List.flatMap_cons, List.append_assoc, parseFrames, hfirst, parsed_ok_bind]
    simp only [he, Bool.not_false, require_true, parsed_ok_bind, decide_eq_true hfits]
    rw [ih hrest (store + f.storeBytes) (by omega), List.map_cons, List.sum_cons, ← Nat.add_assoc]
    cases parseFrames b left (store + f.storeBytes + (good.map Frame.storeBytes).sum) bytes <;> rfl

/-- A payload that ends inside the frame records of a Superframe is truncated (R72, R77). -/
theorem parseFrames_of_cut {fs : List Frame} {store : Nat} {bytes : List Byte}
    (hlegal : ∀ f ∈ fs, f.Legal b ∧ f.ephemeral = false) (hstore : store + (fs.map Frame.storeBytes).sum ≤ b.frameStoreBytes)
    (hcut : bytes <+: fs.flatMap Frame.record) (hne : bytes ≠ fs.flatMap Frame.record) :
    parseFrames b fs.length store bytes = .error .imageTruncated := by
  induction fs generalizing store bytes with
  | nil => exact absurd (List.prefix_nil.mp hcut) hne
  | cons f fs ih =>
    obtain ⟨⟨hf, he⟩, hrest⟩ := List.forall_mem_cons.mp hlegal
    rw [List.flatMap_cons] at hcut hne
    rw [List.map_cons, List.sum_cons] at hstore
    rw [List.length_cons, parseFrames]
    by_cases hwhole : f.record <+: bytes
    · obtain ⟨part, rfl⟩ := hwhole
      have hfirst : parseFrame b (f.record ++ part) = .ok (f, part) := parseFrame_ok_iff.mpr ⟨rfl, hf⟩
      have hfits : store + f.storeBytes ≤ b.frameStoreBytes := by omega
      rw [hfirst, parsed_ok_bind]
      simp only [he, Bool.not_false, require_true, parsed_ok_bind, decide_eq_true hfits]
      rw [ih hrest (by omega) ((List.prefix_append_right_inj _).mp hcut) fun h => hne (by rw [h])]
      rfl
    · have hinside : bytes <+: f.record := (List.prefix_or_prefix_of_prefix hcut (List.prefix_append ..)).resolve_right hwhole
      rw [parseFrame_of_cut hf hinside fun h => hwhole (by rw [h])]
      rfl

end

/-! ### Whole images -/

section
variable {b : Build}

/-- Behind a superframe header in order, the loop over the Frames and the last three checks are left (R77). -/
theorem parseSuperframe_of_count {n : Nat} (hpos : 1 ≤ n) (hmax : n ≤ b.maxFrames) (tail : List Byte) :
    parseSuperframe b (wordBytes ((0 : BitVec 16) ++ BitVec.ofNat 16 n) ++ tail) = (do
      let (fs, bytes) ← parseFrames b n 0 tail
      require (bytes = []) .imageTrailing
      require (cycleLawHolds b fs) .cycleLengthMismatch
      require (fillersFit b fs) .frameLengthMismatch
      .ok fs) := by
  have hrange := b.maxFrames_range.2
  have hcount : headerCount ((0 : BitVec 16) ++ BitVec.ofNat 16 n) = n := by
    rw [headerCount_append]
    exact Nat.mod_eq_of_lt (by omega)
  have hcapacity : (n != 0 && decide (n ≤ b.maxFrames)) = true := by
    rw [bne_iff_ne.mpr (Nat.one_le_iff_ne_zero.mp hpos), decide_eq_true hmax, Bool.and_self]
  simp only [parseSuperframe, take32_wordBytes, parsed_ok_bind, superframeReserved_append, decide_true, require_true, hcount,
    hcapacity]

/-- A fault of the loop behind good Frames is the fault of the whole image (R77). -/
theorem parseSuperframe_of_bad {good : List Frame} {n : Nat} {bytes : List Byte} {cause : Cause}
    (hgood : ∀ f ∈ good, f.Legal b ∧ f.ephemeral = false) (hstore : (good.map Frame.storeBytes).sum ≤ b.frameStoreBytes)
    (hn : good.length < n) (hmax : n ≤ b.maxFrames)
    (hbad : ∀ left, parseFrames b (left + 1) (good.map Frame.storeBytes).sum bytes = .error cause) :
    parseSuperframe b (wordBytes ((0 : BitVec 16) ++ BitVec.ofNat 16 n) ++ good.flatMap Frame.record ++ bytes) =
      .error cause := by
  obtain ⟨left, rfl⟩ := Nat.exists_eq_add_of_lt hn
  rw [List.append_assoc, parseSuperframe_of_count (by omega) hmax, Nat.add_assoc,
    parseFrames_append hgood (left + 1) 0 (by rwa [Nat.zero_add]), Nat.zero_add, hbad]
  rfl

/-- An image of no more than its header's bytes, or cut inside its Frames, is truncated (R72, R77). -/
theorem parseSuperframe_of_cut {fs : List Frame} {bytes : List Byte} (h : WellShaped b fs) (hcut : bytes <+: superframeImage fs)
    (hne : bytes ≠ superframeImage fs) : parseSuperframe b bytes = .error .imageTruncated := by
  obtain ⟨⟨hpos, hmax⟩, hall, hstore⟩ := h
  obtain hshort | ⟨part, rfl, hpart⟩ := cut_of_wordBytes_append hcut
  · rw [parseSuperframe, take32_of_short hshort, parsed_error_bind]
  · rw [parseSuperframe_of_count hpos hmax, parseFrames_of_cut hall (by rwa [Nat.zero_add]) hpart
      fun heq => hne (by rw [superframeImage, heq]), parsed_error_bind]

end

/-! ### What the two commands share -/

/-- The only checks of an INJECT behind its frame record are those of R94. -/
theorem parseFrame_error_of_parseInject {b : Build} {bytes : List Byte} {cause : Cause}
    (h : parseInject b bytes = .error cause) (htrailing : cause ≠ .imageTrailing) (hflags : cause ≠ .badFrameFlags)
    (hlength : cause ≠ .frameLengthMismatch) : parseFrame b bytes = .error cause := by
  obtain hframe | ⟨⟨f, rest⟩, -, hchecks⟩ := parsed_bind_error_iff.mp h
  · exact hframe
  · obtain hcheck | ⟨-, -, hchecks⟩ := parsed_bind_error_iff.mp hchecks
    · exact absurd (require_error_iff.mp hcheck).2.symm htrailing
    obtain hcheck | ⟨-, -, hchecks⟩ := parsed_bind_error_iff.mp hchecks
    · exact absurd (require_error_iff.mp hcheck).2.symm hflags
    obtain hcheck | ⟨-, -, hchecks⟩ := parsed_bind_error_iff.mp hchecks
    · exact absurd (require_error_iff.mp hcheck).2.symm hlength
    · cases hchecks

/-- A fault of the frame record is the fault of an INJECT (R94). -/
theorem parseInject_of_frame_error {b : Build} {bytes : List Byte} {cause : Cause}
    (h : parseFrame b bytes = .error cause) : parseInject b bytes = .error cause := by
  rw [parseInject, h, parsed_error_bind]

/-- A fault of the next frame record is the fault of the loop over the Frames (R77). -/
theorem parseFrames_of_frame_error {b : Build} {bytes : List Byte} {cause : Cause}
    (h : parseFrame b bytes = .error cause) (left store : Nat) : parseFrames b (left + 1) store bytes = .error cause := by
  rw [parseFrames, h, parsed_error_bind]

end Sys2Proof.Machine
end

section
/-! CONFIGURE and INJECT of every payload: what they accept (R80, R94 to R96), and which fault a payload they refuse raises (R72
to R79, R94, R95). -/

namespace Sys2Proof.Machine

/-! ### What CONFIGURE accepts -/

/-- The image of a lawful Superframe is loaded (R77, R80). -/
theorem exec_configure_of_lawful {s : State} {fs : List Frame} (hclear : s.faulted = false) (hconf : s.configured = false)
    (hlawful : LawfulSuperframe s.build fs) :
    exec (.configure (superframeImage fs)) s = .next ((s.loadSuperframe fs).respond .ok 0) :=
  exec_configure_of_ok hclear hconf (parseSuperframe_ok_iff.mpr ⟨rfl, hlawful⟩)

/-- Settles O7: the parser accepts the image, and `State.loadSuperframe` is all that it changes. -/
theorem configureLoadsEveryLawfulSuperframe : Obligations.ConfigureLoadsEveryLawfulSuperframe := by
  unfold Obligations.ConfigureLoadsEveryLawfulSuperframe
  intro s fs hclear hconf hlawful
  exact exec_configure_of_lawful hclear hconf hlawful

/-- Settles O9: the configuration is checked before the payload is read (R80). -/
theorem configureWhileConfiguredFaults : Obligations.ConfigureWhileConfiguredFaults := by
  unfold Obligations.ConfigureWhileConfiguredFaults
  intro s image hclear hconf
  change execConfigure image s = _
  rw [execConfigure, unlessFaulted_of_clear hclear, if_pos hconf]
  rfl

/-- A CONFIGURE that raises no fault was given the image of a lawful Superframe, and loads it (R77, R80). -/
theorem exec_configure_inv {s t : State} {image : List Byte} (hclear : s.faulted = false)
    (h : exec (.configure image) s = .next t) (hstays : t.faulted = false) :
    s.configured = false ∧ ∃ fs, image = superframeImage fs ∧ LawfulSuperframe s.build fs ∧
      t = (s.loadSuperframe fs).respond .ok 0 := by
  cases hconf : s.configured with
  | true =>
    rw [configureWhileConfiguredFaults s image hclear hconf] at h
    obtain rfl := Host.Outcome.next.inj h
    cases hstays
  | false =>
    cases hparse : parseSuperframe s.build image with
    | error cause =>
      rw [exec_configure_of_error hclear hconf hparse] at h
      obtain rfl := Host.Outcome.next.inj h
      cases hstays
    | ok fs =>
      rw [exec_configure_of_ok hclear hconf hparse] at h
      obtain ⟨himage, hlawful⟩ := parseSuperframe_ok_iff.mp hparse
      exact ⟨rfl, fs, himage, hlawful, (Host.Outcome.next.inj h).symm⟩

/-- The frame count of a lawful Superframe fits `S.FC` (R6, R10). -/
theorem lawfulSuperframe_count {b : Build} {fs : List Frame} (h : LawfulSuperframe b fs) :
    (BitVec.ofNat 16 fs.length).toNat = fs.length := by
  obtain ⟨⟨⟨-, hmax⟩, -, -⟩, -, -⟩ := h
  have hrange := b.maxFrames_range.2
  exact Nat.mod_eq_of_lt (by omega)

/-- Settles O8: `exec_configure_inv` gives the Superframe, and the block that loaded it holds it. -/
theorem configureAcceptsOnlyLawfulSuperframes : Obligations.ConfigureAcceptsOnlyLawfulSuperframes := by
  unfold Obligations.ConfigureAcceptsOnlyLawfulSuperframes
  intro s t image hclear h hstays
  obtain ⟨hconf, fs, himage, hlawful, rfl⟩ := exec_configure_inv hclear h hstays
  exact ⟨hconf, rfl, hlawful, himage, lawfulSuperframe_count hlawful⟩

/-! ### What CONFIGURE refuses -/

/-- Settles O10: `parseSuperframe_of_cut`. -/
theorem configureRefusesTruncatedImage : Obligations.ConfigureRefusesTruncatedImage := by
  unfold Obligations.ConfigureRefusesTruncatedImage
  intro s fs image hclear hconf hshape hcut hne
  exact exec_configure_of_error hclear hconf (parseSuperframe_of_cut hshape hcut hne)

/-- Settles O11: behind a well-shaped image the first check left is the one on the bytes after it. -/
theorem configureRefusesTrailingBytes : Obligations.ConfigureRefusesTrailingBytes := by
  unfold Obligations.ConfigureRefusesTrailingBytes
  intro s fs extra hclear hconf hshape hextra
  have hparse : parseSuperframe s.build (superframeImage fs ++ extra) = .error .imageTrailing := by
    rw [parseSuperframe_of_wellShaped hshape, decide_eq_false hextra, require_false, parsed_error_bind]
  exact exec_configure_of_error hclear hconf hparse

/-- An ephemeral Frame is refused, whatever the frame store holds (R77). -/
theorem parseFrames_of_ephemeral {b : Build} {f : Frame} (hf : f.Legal b) (he : f.ephemeral = true) (left store : Nat)
    (rest : List Byte) : parseFrames b (left + 1) store (f.record ++ rest) = .error .badFrameFlags := by
  rw [parseFrames, parseFrame_ok_iff.mpr ⟨rfl, hf⟩, parsed_ok_bind]
  simp only [he, Bool.not_true, require_false, parsed_error_bind]

/-- A Frame that no longer fits the frame store is refused (R77). -/
theorem parseFrames_of_overflow {b : Build} {f : Frame} {store : Nat} (hf : f.Legal b) (he : f.ephemeral = false)
    (hstore : b.frameStoreBytes < store + f.storeBytes) (left : Nat) (rest : List Byte) :
    parseFrames b (left + 1) store (f.record ++ rest) = .error .capacity := by
  rw [parseFrames, parseFrame_ok_iff.mpr ⟨rfl, hf⟩, parsed_ok_bind]
  simp only [he, Bool.not_false, require_true, parsed_ok_bind, decide_eq_false (Nat.not_le.mpr hstore), require_false,
    parsed_error_bind]

/-- Settles O13: behind the good Frames the flags of the next one are checked, and then what it takes of the frame store. -/
theorem configureChecksFlagsThenFrameStore : Obligations.ConfigureChecksFlagsThenFrameStore := by
  unfold Obligations.ConfigureChecksFlagsThenFrameStore
  intro s n good bad rest hclear hconf hn hmax hgood hstore hbad image
  have hparse {cause : Cause}
      (hframes : ∀ left, parseFrames s.build (left + 1) (good.map Frame.storeBytes).sum (bad.record ++ rest) = .error cause) :
      parseSuperframe s.build image = .error cause := by
    have hsuperframe := parseSuperframe_of_bad hgood hstore hn hmax hframes
    rwa [← List.append_assoc] at hsuperframe
  constructor
  · intro he
    exact exec_configure_of_error hclear hconf (hparse fun left => parseFrames_of_ephemeral hbad he left _ rest)
  · intro he hover
    exact exec_configure_of_error hclear hconf (hparse fun left => parseFrames_of_overflow hbad he hover left rest)

/-- Settles O14: the three checks of the superframe header, in the order of `parseSuperframe`. -/
theorem configureChecksTheSuperframeHeader : Obligations.ConfigureChecksTheSuperframeHeader := by
  unfold Obligations.ConfigureChecksTheSuperframeHeader
  intro s h rest hclear hconf
  refine ⟨?short, ?reserved, ?count⟩
  case short =>
    intro image hshort
    refine exec_configure_of_error (cause := .imageTruncated) hclear hconf ?_
    rw [parseSuperframe, take32_of_short hshort, parsed_error_bind]
  case reserved =>
    intro hreserved
    refine exec_configure_of_error (cause := .reservedField) hclear hconf ?_
    have hbit : decide (superframeReserved h = 0) = false := decide_eq_false hreserved
    simp only [parseSuperframe, take32_wordBytes, parsed_ok_bind, hbit, require_false, parsed_error_bind]
  case count =>
    intro hreserved hcount
    refine exec_configure_of_error (cause := .capacity) hclear hconf ?_
    have hbit : decide (superframeReserved h = 0) = true := decide_eq_true hreserved
    have hcapacity : (headerCount h != 0 && decide (headerCount h ≤ s.build.maxFrames)) = false := by
      rw [Bool.and_eq_false_iff, bne_eq_false_iff_eq, decide_eq_false_iff_not, Nat.not_le]
      exact hcount
    simp only [parseSuperframe, take32_wordBytes, parsed_ok_bind, hbit, require_true, hcapacity, require_false,
      parsed_error_bind]

/-! ### What INJECT accepts -/

/-- An INJECT that raises no fault was given the record of an injectable Frame, and queues it unless the queue is full (R94
to R96). -/
theorem exec_inject_inv {s t : State} {record : List Byte} (hclear : s.faulted = false)
    (h : exec (.inject record) s = .next t) (hstays : t.faulted = false) :
    s.configured = true ∧ ∃ f, record = f.record ∧ f.Injectable s.build ∧
      ((s.queueFull = false ∧ t = (s.enqueue f).respond .ok 0) ∨ (s.queueFull = true ∧ t = s.respond .full 0)) := by
  cases hconf : s.configured with
  | false =>
    change execInject record s = _ at h
    rw [execInject, unlessFaulted_of_clear hclear, hconf] at h
    obtain rfl := Host.Outcome.next.inj h
    cases hstays
  | true =>
    cases hparse : parseInject s.build record with
    | error cause =>
      rw [exec_inject_of_error hclear hconf hparse] at h
      obtain rfl := Host.Outcome.next.inj h
      cases hstays
    | ok f =>
      obtain ⟨hrecord, hf⟩ := parseInject_ok_iff.mp hparse
      rw [exec_inject_of_ok hclear hconf hparse] at h
      refine ⟨rfl, f, hrecord, hf, ?_⟩
      cases hfull : s.queueFull with
      | false => rw [hfull] at h; exact .inl ⟨rfl, (Host.Outcome.next.inj h).symm⟩
      | true => rw [hfull] at h; exact .inr ⟨rfl, (Host.Outcome.next.inj h).symm⟩

/-- The new responses of a state that has one more. -/
theorem newReplies_of_append {s t : State} {new : List Reply} (h : t.replies = s.replies ++ new) : newReplies s t = new := by
  rw [newReplies, h, List.drop_left]

/-- Settles O16: `exec_inject_inv` gives the Frame and the two answers. -/
theorem injectAcceptsOnlyInjectableFrames : Obligations.InjectAcceptsOnlyInjectableFrames := by
  unfold Obligations.InjectAcceptsOnlyInjectableFrames
  intro s t record hclear h hstays
  obtain ⟨hconf, f, hrecord, hf, ⟨-, rfl⟩ | ⟨hfull, rfl⟩⟩ := exec_inject_inv hclear h hstays
  · exact ⟨hconf, f, hrecord, hf, .inl ⟨rfl, newReplies_of_append rfl⟩⟩
  · obtain ⟨hfinite, hlen⟩ := queueFull_iff.mp hfull
    exact ⟨hconf, f, hrecord, hf, .inr ⟨rfl, hfinite, hlen, newReplies_of_append rfl⟩⟩

/-! ### What INJECT refuses -/

section
variable {s : State} {bytes : List Byte} {cause : Cause}

/-- A fault of the frame record is raised by the INJECT, and nothing else changes (R73, R94, R107). -/
theorem exec_inject_of_frame_error (hclear : s.faulted = false) (hconf : s.configured = true)
    (h : parseFrame s.build bytes = .error cause) : exec (.inject bytes) s = .next (s.afterFault 0x4 cause.code) :=
  exec_inject_of_error hclear hconf (parseInject_of_frame_error h)

/-- An INJECT into a configured block faults only where the parser does, with the parser's cause (R94). -/
theorem parseInject_of_exec_fault {code : BitVec 8} (hclear : s.faulted = false) (hconf : s.configured = true)
    (h : exec (.inject bytes) s = .next (s.afterFault 0x4 code)) :
    ∃ c : Cause, parseInject s.build bytes = .error c ∧ code = c.code := by
  cases hparse : parseInject s.build bytes with
  | error c =>
    rw [exec_inject_of_error hclear hconf hparse] at h
    exact ⟨c, rfl, (congrArg State.faultCause (Host.Outcome.next.inj h)).symm⟩
  | ok f =>
    rw [exec_inject_of_ok hclear hconf hparse] at h
    have hstays : s.faulted = true := by
      split at h <;> exact congrArg State.faulted (Host.Outcome.next.inj h)
    rw [hclear] at hstays
    contradiction

end

/-- Settles O18: the four checks of the frame header, in the order of `parseFrame`. -/
theorem injectChecksTheFrameHeader : Obligations.InjectChecksTheFrameHeader := by
  unfold Obligations.InjectChecksTheFrameHeader
  intro s h rest hclear hconf
  refine ⟨?short, ?reserved, ?none, ?many⟩
  case short =>
    intro record hshort
    refine exec_inject_of_frame_error (cause := .imageTruncated) hclear hconf ?_
    rw [parseFrame, take32_of_short hshort, parsed_error_bind]
  case reserved =>
    intro hreserved
    refine exec_inject_of_frame_error (cause := .reservedField) hclear hconf ?_
    have hbit : decide (headerReserved h = 0) = false := decide_eq_false hreserved
    simp only [parseFrame, take32_wordBytes, parsed_ok_bind, hbit, require_false, parsed_error_bind]
  case none =>
    intro hreserved hcount
    refine exec_inject_of_frame_error (cause := .badFrameStructure) hclear hconf ?_
    have hbit : decide (headerReserved h = 0) = true := decide_eq_true hreserved
    have hzero : (headerCount h != 0) = false := bne_eq_false_iff_eq.mpr hcount
    simp only [parseFrame, take32_wordBytes, parsed_ok_bind, hbit, require_true, hzero, require_false, parsed_error_bind]
  case many =>
    intro hreserved hcount
    refine exec_inject_of_frame_error (cause := .capacity) hclear hconf ?_
    have hbit : decide (headerReserved h = 0) = true := decide_eq_true hreserved
    have hpos : (headerCount h != 0) = true := bne_iff_ne.mpr (Nat.ne_zero_of_lt hcount)
    have hmany : decide (headerCount h ≤ s.build.maxSegs) = false := decide_eq_false (Nat.not_le.mpr hcount)
    simp only [parseFrame, take32_wordBytes, parsed_ok_bind, hbit, require_true, hpos, hmany, require_false,
      parsed_error_bind]

/-! ### The first bad segment record -/

section
variable {b : Build} {last : Bool} {g : Word} {rest : List Byte}

/-- A reserved bit of a segment header is refused before its kind is read (R73, R75). -/
theorem parseSegment_of_reserved (h : headerReserved g ≠ 0) :
    parseSegment b last (wordBytes g ++ rest) = .error .reservedField := by
  simp only [parseSegment, take32_wordBytes, parsed_ok_bind, decide_eq_false h, require_false, parsed_error_bind]

/-- KIND 0b11 names no kind (R67). -/
theorem headerKind_eq_none (h : (g.extractLsb' 30 2).toNat = 0b11) : headerKind g = none := by
  simp [headerKind, h]

theorem headerKind_of_field {k : Kind} (h : (g.extractLsb' 30 2).toNat = k.field.toNat) : headerKind g = some k :=
  headerKind_some_iff.mpr (BitVec.eq_of_toNat_eq h)

/-- A header of no kind is refused (R67, R73). -/
theorem parseSegment_of_no_kind (h : headerReserved g = 0) (hk : headerKind g = none) :
    parseSegment b last (wordBytes g ++ rest) = .error .badSegmentKind := by
  simp only [parseSegment, take32_wordBytes, parsed_ok_bind, h, decide_true, require_true, hk]

/-- The one check of a STATUS header (R73). -/
theorem parseSegment_of_status (h : headerReserved g = 0) (hk : headerKind g = some .status) :
    parseSegment b last (wordBytes g ++ rest) = (do
      require (headerCount g = 1) .badSegmentLength
      .ok ({ kind := .status, nbits := headerCount g, samples := [] }, rest)) := by
  simp only [parseSegment, take32_wordBytes, parsed_ok_bind, h, decide_true, require_true, hk]

/-- The two checks of an EOB header (R73). -/
theorem parseSegment_of_eob (h : headerReserved g = 0) (hk : headerKind g = some .eob) :
    parseSegment b last (wordBytes g ++ rest) = (do
      require (headerCount g = 0) .badSegmentLength
      require last .badFrameStructure
      .ok ({ kind := .eob, nbits := headerCount g, samples := [] }, rest)) := by
  simp only [parseSegment, take32_wordBytes, parsed_ok_bind, h, decide_true, require_true, hk]

/-- The check of a MESSAGE header with a positive length, which leaves its sample block (R73, R76). -/
theorem parseSegment_of_message (h : headerReserved g = 0) (hk : headerKind g = some .message) (hpos : 1 ≤ headerCount g) :
    parseSegment b last (wordBytes g ++ rest) = (do
      let (samples, bytes) ← takeSamples (2 * headerCount g * b.os) rest
      .ok ({ kind := .message, nbits := headerCount g, samples := samples }, bytes)) := by
  have hcount : (headerCount g != 0) = true := bne_iff_ne.mpr (Nat.one_le_iff_ne_zero.mp hpos)
  simp only [parseSegment, take32_wordBytes, parsed_ok_bind, h, decide_true, require_true, hk, hcount]

/-- A MESSAGE header without a bit is refused (R73). -/
theorem parseSegment_of_empty_message (h : headerReserved g = 0) (hk : headerKind g = some .message)
    (hzero : headerCount g = 0) : parseSegment b last (wordBytes g ++ rest) = .error .badSegmentLength := by
  have hcount : (headerCount g != 0) = false := bne_eq_false_iff_eq.mpr hzero
  simp only [parseSegment, take32_wordBytes, parsed_ok_bind, h, decide_true, require_true, hk, hcount, require_false,
    parsed_error_bind]

/-- A sample block that ends too early is refused before a byte of it is read (R76). -/
theorem takeSamples_of_short {n : Nat} (h : rest.length < n) : takeSamples n rest = .error .imageTruncated := by
  rw [takeSamples, decide_eq_false (Nat.not_le.mpr h), require_false, parsed_error_bind]

/-- A whole sample block with an invalid byte is refused (R76). -/
theorem takeSamples_of_invalid {n : Nat} (hlen : n ≤ rest.length) (h : ∃ x ∈ rest.take n, x ≠ 0x01 ∧ x ≠ 0xFF) :
    takeSamples n rest = .error .invalidSymbol := by
  rw [takeSamples, decide_eq_true hlen, require_true, parsed_ok_bind, readSamples_of_invalid h, parsed_error_bind]

/-- Bytes that all stand for samples are read (R64, R76). -/
theorem exists_readSamples {bytes : List Byte} (h : ∀ x ∈ bytes, x = 0x01 ∨ x = 0xFF) : ∃ vs, readSamples bytes = .ok vs := by
  induction bytes with
  | nil => exact ⟨[], rfl⟩
  | cons byte bytes ih =>
    obtain ⟨hbyte, hbytes⟩ := List.forall_mem_cons.mp h
    obtain ⟨vs, hvs⟩ := ih hbytes
    cases hsample : sampleOfByte byte with
    | none =>
      obtain ⟨hplus, hminus⟩ := sampleOfByte_eq_none_iff.mp hsample
      exact (hbyte.elim hplus hminus).elim
    | some v => exact ⟨v :: vs, by simp only [readSamples, hsample, hvs, parsed_ok_bind]⟩

/-- A whole sample block whose bytes all stand for samples is taken (R76). -/
theorem exists_takeSamples {n : Nat} (hlen : n ≤ rest.length) (hvalid : ∀ x ∈ rest.take n, x = 0x01 ∨ x = 0xFF) :
    ∃ vs, takeSamples n rest = .ok (vs, rest.drop n) := by
  obtain ⟨vs, hvs⟩ := exists_readSamples hvalid
  refine ⟨vs, ?_⟩
  rw [takeSamples, decide_eq_true hlen, require_true, parsed_ok_bind, hvs, parsed_ok_bind]

end

/-- Behind the good Segments of an INJECT's record, a fault of the next segment record is raised. -/
theorem exec_inject_of_bad_segment {s : State} {flags : BitVec 2} {n : Nat} {good : List Segment} {bytes : List Byte}
    {cause : Cause} (hclear : s.faulted = false) (hconf : s.configured = true) (hmax : n ≤ s.build.maxSegs)
    (hn : good.length < n) (hgood : ∀ x ∈ good, x.Legal s.build ∧ x.kind ≠ .eob)
    (hbad : parseSegment s.build (good.length + 1 = n) bytes = .error cause) :
    exec (.inject (wordBytes (flags ++ (0 : BitVec 14) ++ BitVec.ofNat 16 n) ++ good.flatMap Segment.record ++ bytes)) s =
      .next (s.afterFault 0x4 cause.code) := by
  have hrange := s.build.maxSegs_range.2
  have hcount : headerCount (flags ++ (0 : BitVec 14) ++ BitVec.ofNat 16 n) = n := by
    rw [headerCount_of_header]
    exact Nat.mod_eq_of_lt (by omega)
  refine exec_inject_of_frame_error hclear hconf ?_
  rw [List.append_assoc, parseFrame_of_header (headerReserved_of_header ..) (by omega) (by omega), hcount,
    parseSegments_of_bad hgood hn hbad, parsed_error_bind]

/-- A record whose Segments are all good and whose last one is no EOB is refused when all are read (R73). -/
theorem exec_inject_of_last_not_eob {s : State} {flags : BitVec 2} {n : Nat} {good : List Segment} {bytes rest : List Byte}
    {g : Segment} (hclear : s.faulted = false) (hconf : s.configured = true) (hmax : n ≤ s.build.maxSegs)
    (hn : good.length + 1 = n) (hgood : ∀ x ∈ good, x.Legal s.build ∧ x.kind ≠ .eob)
    (hlast : parseSegment s.build true bytes = .ok (g, rest)) (hk : g.kind ≠ .eob) :
    exec (.inject (wordBytes (flags ++ (0 : BitVec 14) ++ BitVec.ofNat 16 n) ++ good.flatMap Segment.record ++ bytes)) s =
      .next (s.afterFault 0x4 0x0A) := by
  subst hn
  have hrange := s.build.maxSegs_range.2
  have hcount : headerCount (flags ++ (0 : BitVec 14) ++ BitVec.ofNat 16 (good.length + 1)) = good.length + 1 := by
    rw [headerCount_of_header]
    exact Nat.mod_eq_of_lt (by omega)
  have hone : parseSegments s.build 1 bytes = .ok ([g], rest) := by
    have hfirst : parseSegment s.build (decide (0 = 0)) bytes = .ok (g, rest) := hlast
    rw [parseSegments, hfirst]
    rfl
  have hend : endsInEob (good ++ [g]) = false := by
    rw [endsInEob, List.getLast?_concat]
    exact decide_eq_false fun h => hk (Option.some.inj h)
  refine exec_inject_of_frame_error (cause := .badFrameStructure) hclear hconf ?_
  rw [List.append_assoc, parseFrame_of_header (headerReserved_of_header ..) (by omega) (by omega), hcount,
    parseSegments_append hgood, hone]
  simp only [parsed_ok_bind, hend, require_false, parsed_error_bind]

/-- Settles O19: the good Segments are read, and each clause is one check of `parseSegment` on the next header, or the check
behind the last Segment. -/
theorem injectReportsTheFirstBadSegment : Obligations.InjectReportsTheFirstBadSegment := by
  unfold Obligations.InjectReportsTheFirstBadSegment
  intro s flags n good g rest hclear hconf hmax hn hgood front kind nbits size raises
  have hraises {cause : Cause} (hbad : parseSegment s.build (good.length + 1 = n) (wordBytes g ++ rest) = .error cause) :
      raises cause.code := by
    have hexec := exec_inject_of_bad_segment (flags := flags) hclear hconf hmax hn hgood hbad
    rwa [← List.append_assoc] at hexec
  have hraisesLast {x : Segment} {tail : List Byte} (hall : good.length + 1 = n) (hk : x.kind ≠ .eob)
      (hlast : parseSegment s.build true (wordBytes g ++ rest) = .ok (x, tail)) : raises 0x0A := by
    have hexec := exec_inject_of_last_not_eob (flags := flags) hclear hconf hmax hall hgood hlast hk
    rwa [← List.append_assoc] at hexec
  refine ⟨?short, ?reserved, fun hreserved => ⟨?kind, ?status, ?eob, ?message, ?early, ?missing, ?symbol, ?lastStatus,
    ?lastMessage⟩⟩
  case short =>
    intro short hshort
    refine exec_inject_of_bad_segment (cause := .imageTruncated) hclear hconf hmax hn hgood ?_
    rw [parseSegment, take32_of_short hshort, parsed_error_bind]
  case reserved => exact fun hreserved => hraises (parseSegment_of_reserved hreserved)
  case kind =>
    intro hk
    exact hraises (parseSegment_of_no_kind hreserved (headerKind_eq_none hk))
  case status =>
    intro hk hbits
    have hcheck : decide (headerCount g = 1) = false := decide_eq_false hbits
    refine hraises (cause := .badSegmentLength) ?_
    rw [parseSegment_of_status hreserved (headerKind_of_field hk), hcheck, require_false, parsed_error_bind]
  case eob =>
    intro hk hbits
    have hcheck : decide (headerCount g = 0) = false := decide_eq_false hbits
    refine hraises (cause := .badSegmentLength) ?_
    rw [parseSegment_of_eob hreserved (headerKind_of_field hk), hcheck, require_false, parsed_error_bind]
  case message => exact fun hk hbits => hraises (parseSegment_of_empty_message hreserved (headerKind_of_field hk) hbits)
  case early =>
    intro hk hbits hmore
    have hcheck : decide (headerCount g = 0) = true := decide_eq_true hbits
    refine hraises (cause := .badFrameStructure) ?_
    rw [parseSegment_of_eob hreserved (headerKind_of_field hk), hcheck, require_true, parsed_ok_bind,
      decide_eq_false (Nat.ne_of_lt hmore), require_false, parsed_error_bind]
  case missing =>
    intro hk hbits hshort
    have htake : takeSamples (2 * headerCount g * s.build.os) rest = .error .imageTruncated := takeSamples_of_short hshort
    refine hraises (cause := .imageTruncated) ?_
    rw [parseSegment_of_message hreserved (headerKind_of_field hk) hbits, htake, parsed_error_bind]
  case symbol =>
    intro hk hbits hlong hinvalid
    have htake : takeSamples (2 * headerCount g * s.build.os) rest = .error .invalidSymbol :=
      takeSamples_of_invalid hlong hinvalid
    refine hraises (cause := .invalidSymbol) ?_
    rw [parseSegment_of_message hreserved (headerKind_of_field hk) hbits, htake, parsed_error_bind]
  case lastStatus =>
    intro hk hbits hall
    have hcheck : decide (headerCount g = 1) = true := decide_eq_true hbits
    refine hraisesLast (x := { kind := .status, nbits := headerCount g, samples := [] }) (tail := rest) hall (by simp) ?_
    rw [parseSegment_of_status hreserved (headerKind_of_field hk), hcheck, require_true, parsed_ok_bind]
  case lastMessage =>
    intro hk hbits hlong hvalid hall
    obtain ⟨vs, htake⟩ : ∃ vs, takeSamples (2 * headerCount g * s.build.os) rest = .ok (vs, rest.drop size) :=
      exists_takeSamples hlong hvalid
    refine hraisesLast (x := { kind := .message, nbits := headerCount g, samples := vs })
      (tail := rest.drop size) hall (by simp) ?_
    rw [parseSegment_of_message hreserved (headerKind_of_field hk) hbits, htake, parsed_ok_bind]

/-- Settles O20: the cause is the frame parser's, and `parseSuperframe_of_bad` carries it behind the good Frames. -/
theorem configureAndInjectShareTheFrameParser : Obligations.ConfigureAndInjectShareTheFrameParser := by
  unfold Obligations.ConfigureAndInjectShareTheFrameParser
  intro s u n good bytes cause hclear hconf huclear huconf hbuild hn hmax hgood hstore htrailing hflags hlength hinject
  obtain ⟨c, hparse, rfl⟩ := parseInject_of_exec_fault huclear huconf hinject
  have hframe : parseFrame s.build bytes = .error c := by
    rw [← hbuild]
    exact parseFrame_error_of_parseInject hparse (by rintro rfl; exact htrailing rfl) (by rintro rfl; exact hflags rfl)
      (by rintro rfl; exact hlength rfl)
  exact exec_configure_of_error hclear hconf
    (parseSuperframe_of_bad hgood hstore hn hmax fun left => parseFrames_of_frame_error hframe left _)

end Sys2Proof.Machine
end

section
/-! Single commands and single steps: the control commands, the checks of PULL and INJECT, and which step comes next (R38, R46,
R48, R49, R63, R84, R94, R103, R104). -/

namespace Sys2Proof.Machine

/-! ### The control commands -/

/-- Settles O3: a RESET is `State.resetBlock`, which keeps the fields outside the block, and one response more. -/
theorem resetKeepsWhatLiesOutsideTheBlock : Obligations.ResetKeepsWhatLiesOutsideTheBlock := by
  unfold Obligations.ResetKeepsWhatLiesOutsideTheBlock
  intro s t h
  obtain rfl : s.resetBlock.respond .ok 0 = t := Host.Outcome.next.inj h
  exact ⟨rfl, rfl, rfl, List.prefix_append .., rfl⟩

/-- STATUS right after a RESET: PHASE reads none, and BI the reset value of the status cell (R32, R38). -/
theorem statusWord_of_reset (s : State) (code : Code) (data : BitVec 32) :
    (s.resetBlock.respond code data).statusWord = if s.build.biReset then 0x0000002C else 0x0000000C := by
  have hphase : (s.resetBlock.respond code data).phase = .none := phase_of_unconfigured rfl
  have hword : (s.resetBlock.respond code data).statusWord =
      (0 : BitVec 25) ++ BitVec.ofBool false ++ BitVec.ofBool s.build.biReset ++ BitVec.ofBool false ++ Phase.none.field ++
        BitVec.ofBool false ++ BitVec.ofBool false := by
    rw [State.statusWord, hphase]
    rfl
  rw [hword]
  cases s.build.biReset <;> rfl

/-- FAULT right after a RESET: no fault is recorded (R33, R38). -/
theorem faultWord_of_reset (s : State) (code : Code) (data : BitVec 32) :
    (s.resetBlock.respond code data).faultWord = 0 := by
  change (0 : BitVec 20) ++ (0 : BitVec 4) ++ (0 : BitVec 8) = 0
  decide

/-- Settles O4: `exec_readReg` in the state of a RESET, register by register. -/
theorem registersReadTheirResetValues : Obligations.RegistersReadTheirResetValues := by
  unfold Obligations.RegistersReadTheirResetValues
  intro s t h reg
  obtain rfl : s.resetBlock.respond .ok 0 = t := Host.Outcome.next.inj h
  refine ⟨_, exec_readReg _ reg, ?_⟩
  cases reg with
  | status => exact statusWord_of_reset s .ok 0
  | paramOs => exact regValue_paramOs_toNat _
  | paramBpf => exact regValue_paramBpf_toNat _
  | paramQdepth => exact regValue_paramQdepth_toNat _
  | fault => exact faultWord_of_reset s .ok 0
  | curSlot | curSeg | curOff | qLevel | frameCount | reserved => rfl

/-- No register shows the responses given (R31). -/
theorem regValue_respond (s : State) (code : Code) (data : BitVec 32) (reg : Reg) :
    (s.respond code data).regValue reg = s.regValue reg := by
  cases reg <;> rfl

/-- Settles O6: a READ_REG changes the responses alone, which no register shows. -/
theorem readRegTwiceAnswersTheSame : Obligations.ReadRegTwiceAnswersTheSame := by
  unfold Obligations.ReadRegTwiceAnswersTheSame
  intro s reg
  refine ⟨s.regValue reg, s.respond .ok (s.regValue reg), rfl, rfl, ?_⟩
  have hsame := regValue_respond s .ok (s.regValue reg) reg
  calc exec (.readReg reg) (s.respond .ok (s.regValue reg))
      = .next ((s.respond .ok (s.regValue reg)).respond .ok ((s.respond .ok (s.regValue reg)).regValue reg)) := rfl
    _ = .next ((s.respond .ok (s.regValue reg)).respond .ok (s.regValue reg)) := by rw [hsame]

/-! ### The checks of PULL and INJECT -/

section
variable {s : State}

/-- R84: a PULL before construction raises NOT_CONFIGURED. -/
theorem exec_pull_of_unconfigured (n : Nat) (hclear : s.faulted = false) (hconf : s.configured = false) :
    exec (.pull n) s = .next (s.raise 0x3 .notConfigured) := by
  change execPull n s = _
  rw [execPull, unlessFaulted_of_clear hclear, hconf]
  rfl

/-- R94: an INJECT before construction raises NOT_CONFIGURED, whatever its payload. -/
theorem exec_inject_of_unconfigured (record : List Byte) (hclear : s.faulted = false) (hconf : s.configured = false) :
    exec (.inject record) s = .next (s.raise 0x4 .notConfigured) := by
  change execInject record s = _
  rw [execInject, unlessFaulted_of_clear hclear, hconf]
  rfl

/-- R84: a PULL of 0 samples takes no micro-step. -/
theorem exec_pull_zero (hclear : s.faulted = false) (hconf : s.configured = true) :
    exec (.pull 0) s = .next (s.finishPull { port := s.port, count := 0, out := [], cursor := s.pullCursor }) := by
  change execPull 0 s = _
  rw [execPull, unlessFaulted_of_clear hclear, hconf]
  rfl

end

/-- Settles O22: both commands check the configuration first. -/
theorem pullAndInjectNeedAConfiguration : Obligations.PullAndInjectNeedAConfiguration := by
  unfold Obligations.PullAndInjectNeedAConfiguration
  intro s n record hclear hconf
  exact ⟨exec_pull_of_unconfigured n hclear hconf, exec_inject_of_unconfigured record hclear hconf⟩

/-- Settles O27: `exec_pull_zero`, where there is no PULL in progress to end. -/
theorem pullZeroChangesNothing : Obligations.PullZeroChangesNothing := by
  unfold Obligations.PullZeroChangesNothing
  intro s hclear hconf hpull
  rw [exec_pull_zero hclear hconf]
  refine congrArg Host.Outcome.next ?_
  apply State.ext
  case pull => exact hpull.symm
  all_goals rfl

/-! ### Which step comes next -/

section
variable {s : State} {r : PullRun} {p : Port} {c : Command} {rest : List Input}

/-- The step that takes a legal command is the command, on the state with the command taken (R63). -/
theorem step_of_decode_ok {i : Instr} (h : TakesCommand s p c rest) (hd : decode c.word c.payload = .ok i) :
    step s = exec i (s.accept p rest) := by
  simp only [step, nextTurn_of_takesCommand h, deliver, hd]

/-- What must wait for a PULL: a command on the PULL's own port, or one that is neither an INJECT nor a SET_STATUS (R48,
R49). -/
theorem waitsForPull_iff :
    waitsForPull r p c = true ↔
      p = r.port ∨
        ((∀ record, decode c.word c.payload ≠ .ok (.inject record)) ∧
          ∀ bit, decode c.word c.payload ≠ .ok (.setStatus bit)) := by
  rw [waitsForPull, Bool.or_eq_true, Bool.not_eq_true', decide_eq_true_eq, ← Bool.not_eq_true, fallsInsidePull_iff, not_or,
    not_exists, not_exists, or_comm]

/-- Nothing stands before the next micro-step of the PULL: no entry is left, or the first one is a command that must wait
(R49). -/
def WaitsFor (r : PullRun) (ins : List Input) : Prop :=
  ins = [] ∨ ∃ p c rest, ins = .command p c :: rest ∧ waitsForPull r p c = true

/-- A PULL that nothing stands before takes its next turn, and the interleaving stays. -/
theorem step_of_waitsFor (hpull : s.pull = some r) (h : WaitsFor r s.inputs) : step s = resumePull r s := by
  obtain hins | ⟨p, c, rest, hins, hwaits⟩ := h
  · simp only [step, nextTurn, hpull, hins]
  · simp only [step, nextTurn, hpull, hins, hwaits, if_true]

/-- A turn given to the PULL in progress is used up by it. -/
theorem step_of_pullTurn (hpull : s.pull = some r) (hins : s.inputs = .pullTurn :: rest) :
    step s = resumePull r (s.withInputs rest) := by
  simp only [step, nextTurn, hpull, hins]

end

/-- Settles O40: `step_of_decode_ok`. -/
theorem stepRunsTheDecodedCommand : Obligations.StepRunsTheDecodedCommand := by
  unfold Obligations.StepRunsTheDecodedCommand
  intro s p c rest i htakes hd
  exact step_of_decode_ok htakes hd

/-- Settles O41: the three entries at which the PULL moves on, and outside the fault state its turn is a micro-step. -/
theorem commandsWaitForTheWholePull : Obligations.CommandsWaitForTheWholePull := by
  unfold Obligations.CommandsWaitForTheWholePull
  intro s r p c rest hclear hpull
  refine ⟨?idle, ?turn, ?waiting⟩
  case idle =>
    intro hins
    rw [step_of_waitsFor hpull (.inl hins), resumePull_of_clear hclear]
  case turn =>
    intro hins
    rw [step_of_pullTurn hpull hins]
    exact resumePull_of_clear hclear
  case waiting =>
    intro hins hwaits
    rw [step_of_waitsFor hpull (.inr ⟨p, c, rest, hins, waitsForPull_iff.mpr hwaits⟩), resumePull_of_clear hclear]

/-- Settles O24: the same three entries, at which the turn of the PULL in the fault state is its end. -/
theorem pullInProgressEndsIgnoredWhileFaulted : Obligations.PullInProgressEndsIgnoredWhileFaulted := by
  unfold Obligations.PullInProgressEndsIgnoredWhileFaulted
  intro s r hfaulted hpull ended
  have hended {ins : List Input} (hins : s.inputs = ins) : s.ignorePull r = ended ins := by subst hins; rfl
  refine ⟨?idle, ?turn, ?waiting⟩
  case idle =>
    intro hins
    rw [step_of_waitsFor hpull (.inl hins), resumePull_of_faulted hfaulted, hended hins]
  case turn =>
    intro rest hins
    rw [step_of_pullTurn hpull hins]
    exact resumePull_of_faulted hfaulted
  case waiting =>
    intro p c rest hins hwaits
    rw [step_of_waitsFor hpull (.inr ⟨p, c, rest, hins, waitsForPull_iff.mpr hwaits⟩), resumePull_of_faulted hfaulted,
      hended hins]

end Sys2Proof.Machine
end

section
/-! One micro-step of a PULL as a whole (R83 to R88), and what one step of the machine can do (R45, R49, R63): each said once,
as a list of named effects, from which the frame of a step is read off. -/

namespace Sys2Proof.Machine

/-! ### EmitStep from a PULL's cursor -/

/-- The status bit that a Segment carries at the cursor `c`: a STATUS Segment loads it at its offset 0 (R28, R85). -/
def State.carriedBit (s : State) (c : PullCursor) (g : Segment) : Bool :=
  if g.kind = .status ∧ c.off = 0 then s.bi else c.latch

/-- The cursor and the latch behind one sample of the Segment `g` at the cursor `c` (R85). -/
def State.cursorAfter (s : State) (c : PullCursor) (g : Segment) : PullCursor :=
  { seg := if c.off.toNat + 1 = g.len s.build then c.seg + 1 else c.seg
    off := if c.off.toNat + 1 = g.len s.build then 0 else c.off + 1
    latch := s.carriedBit c g }

/-- The sample of the Segment `g` at the cursor `c` (R83, R91). -/
def State.sampleFrom (s : State) (c : PullCursor) (g : Segment) : Option Sample :=
  (g.stream s.build (s.carriedBit c g))[c.off.toNat]?

section
variable {s : State} {c : PullCursor} {g : Segment}

/-- The latch load leaves the latch at the carried bit (R85). -/
theorem loadLatch_atCursor (s : State) (c : PullCursor) (g : Segment) :
    (s.atCursor c).loadLatch g = s.atCursor { c with latch := s.carriedBit c g } := by
  apply State.ext
  case latch => exact loadLatch_latch (s.atCursor c) g
  all_goals simp

/-- The cursor's move behind the latch load (R85). -/
theorem moveCursor_atCursor (s : State) (c : PullCursor) (g : Segment) :
    (s.atCursor { c with latch := s.carriedBit c g }).moveCursor g = s.atCursor (s.cursorAfter c g) := by
  apply State.ext
  case seg => exact moveCursor_seg _ g
  case off => exact moveCursor_off _ g
  all_goals simp [State.cursorAfter]

/-- EmitStep from the cursor `c`, as one equation (R85). -/
theorem emitStep_atCursor_eq (hseg : (s.atCursor c).curSeg = some g) :
    (s.atCursor c).emitStep g = (s.sampleFrom c g).map fun v => (v, s.atCursor (s.cursorAfter c g)) := by
  have hsample : (s.atCursor { c with latch := s.carriedBit c g }).sampleAt g = s.sampleFrom c g :=
    sampleAt_eq_stream (by rwa [← loadLatch_atCursor, State.loadLatch_curSeg])
  simp only [State.emitStep, loadLatch_atCursor, hsample, moveCursor_atCursor]
  cases s.sampleFrom c g <;> rfl

/-- There is a sample at every offset within a legal Segment (R40). -/
theorem exists_sampleFrom (hg : g.Legal s.build) (hoff : c.off.toNat < g.len s.build) : ∃ v, s.sampleFrom c g = some v :=
  ⟨_, List.getElem?_eq_getElem (by rwa [stream_length hg])⟩

end

/-! ### One micro-step -/

section
variable {s t : State} {r : PullRun} {g : Segment}

@[simp] theorem emit_out_length (r : PullRun) (v : Sample) (c : PullCursor) :
    (r.emit v c).out.length = r.out.length + 1 := by
  simp [PullRun.emit]

@[simp] theorem emit_count (r : PullRun) (v : Sample) (c : PullCursor) : (r.emit v c).count = r.count := rfl

/-- The loop test of R84, as one record update behind the sample `v`. -/
theorem continuePull_emit (s : State) (r : PullRun) (v : Sample) (c : PullCursor) :
    s.continuePull (r.emit v c) =
      if r.out.length + 1 < r.count then { s with pull := some (r.emit v c) }
      else (s.atCursor c).finishPull (r.emit v c) := by
  rw [State.continuePull, emit_out_length]
  rfl

/-- A micro-step where the current Segment has no sample left stops (R40). -/
theorem pullMicroStep_of_no_sample (hseg : (s.atCursor r.cursor).curSeg = some g) (hk : g.kind ≠ .eob)
    (hv : s.sampleFrom r.cursor g = none) : pullMicroStep r s = .fault .noSample := by
  simp only [pullMicroStep, hseg, if_neg hk, emitStep_atCursor_eq hseg, hv, Option.map_none]

/-- A micro-step on a STATUS or MESSAGE Segment is one EmitStep (R85). -/
theorem pullMicroStep_of_sample {v : Sample} (hseg : (s.atCursor r.cursor).curSeg = some g) (hk : g.kind ≠ .eob)
    (hv : s.sampleFrom r.cursor g = some v) :
    pullMicroStep r s = .next (s.continuePull (r.emit v (s.cursorAfter r.cursor g))) := by
  simp only [pullMicroStep, hseg, if_neg hk, emitStep_atCursor_eq hseg, hv, Option.map_some, State.pullCursor_atCursor]

/-- What one micro-step of the PULL `r` can do (R84, R85, R87). -/
inductive MicroEffect (r : PullRun) (s : State) : State → Prop
  /-- On an EOB: one FrameAdvance, which ends the PULL. -/
  | advance (g : Segment) (f : Frame) (hseg : (s.atCursor r.cursor).curSeg = some g) (hk : g.kind = .eob) (hfc : s.fc ≠ 0)
      (hf : s.sf[(s.slot.toNat + 1) % s.fc.toNat]? = some f) :
      MicroEffect r s
        ((((s.atCursor r.cursor).enterSlot ((s.slot.toNat + 1) % s.fc.toNat)).substitute f).finishPull r)
  /-- One EmitStep, after which the PULL has room left. -/
  | goOn (g : Segment) (v : Sample) (hseg : (s.atCursor r.cursor).curSeg = some g) (hk : g.kind ≠ .eob)
      (hv : s.sampleFrom r.cursor g = some v) (hroom : r.out.length + 1 < r.count) :
      MicroEffect r s { s with pull := some (r.emit v (s.cursorAfter r.cursor g)) }
  /-- One EmitStep, which ends the PULL. -/
  | finish (g : Segment) (v : Sample) (hseg : (s.atCursor r.cursor).curSeg = some g) (hk : g.kind ≠ .eob)
      (hv : s.sampleFrom r.cursor g = some v) (hfull : r.count ≤ r.out.length + 1) :
      MicroEffect r s
        ((s.atCursor (s.cursorAfter r.cursor g)).finishPull (r.emit v (s.cursorAfter r.cursor g)))

/-- All that a micro-step can do, from the inversion of `pullMicroStep`. -/
theorem microEffect_of_next (h : pullMicroStep r s = .next t) : MicroEffect r s t := by
  obtain ⟨g, hseg, ⟨hk, u, hadvance, rfl⟩ | ⟨hk, v, u, hemit, rfl⟩⟩ := pullMicroStep_next_iff.mp h
  · obtain ⟨hfc, f, hf, rfl⟩ := frameAdvance_some_iff.mp hadvance
    exact .advance g f hseg hk hfc hf
  · rw [emitStep_atCursor_eq hseg] at hemit
    obtain ⟨w, hv, hpair⟩ := Option.map_eq_some_iff.mp hemit
    obtain ⟨rfl, rfl⟩ := Prod.mk.inj hpair
    rw [State.pullCursor_atCursor, continuePull_emit]
    split
    case isTrue hroom => exact .goOn g w hseg hk hv hroom
    case isFalse hfull => exact .finish g w hseg hk hv (Nat.not_lt.mp hfull)

/-- What no micro-step changes: the Superframe, the status cell, and what lies outside the block. -/
theorem pullMicroStep_keeps (h : pullMicroStep r s = .next t) :
    t.build = s.build ∧ t.configured = s.configured ∧ t.sf = s.sf ∧ t.fc = s.fc ∧ t.bi = s.bi ∧ t.inputs = s.inputs ∧
      t.port = s.port := by
  cases microEffect_of_next h with
  | advance => simp
  | goOn => simp
  | finish => simp

end

/-- Settles O30: `pullMicroStep_of_sample`, with the sample read off the line code or the Segment's buffer. -/
theorem microStepIsOneEmitStep : Obligations.MicroStepIsOneEmitStep := by
  unfold Obligations.MicroStepIsOneEmitStep
  intro s r g c hseg hk hg hoff bit location after
  obtain ⟨v, hv⟩ := exists_sampleFrom (c := c) hg hoff
  have hafter : s.cursorAfter c g = after := rfl
  have hlocation : (s.atCursor c).cursorLocation = location := by
    obtain hinj | ⟨f, hinj⟩ := Option.eq_none_or_eq_some s.inj <;> simp [State.cursorLocation, location, hinj]
  refine ⟨v, ?status, ?message, ?emit, ?micro⟩
  case status =>
    intro hstatus
    rwa [State.sampleFrom, stream_status hstatus] at hv
  case message =>
    intro hmessage
    rw [State.sampleFrom, stream_message hmessage] at hv
    have hread := memRead_cursor hseg hmessage
    rw [hlocation] at hread
    exact hread.trans hv
  case emit => rw [emitStep_atCursor_eq hseg, hv, Option.map_some, hafter]
  case micro =>
    rw [pullMicroStep_of_sample hseg hk hv, continuePull_emit, hafter]
    split
    · rfl
    · refine congrArg Host.Outcome.next ?_
      apply State.ext
      case replies => simp [PullRun.emit]
      all_goals rfl

/-- Settles O29: the first micro-step is the EmitStep of `microStepIsOneEmitStep` from the cursor of the block. -/
theorem pullEmitsTheSampleAtTheCursor : Obligations.PullEmitsTheSampleAtTheCursor := by
  unfold Obligations.PullEmitsTheSampleAtTheCursor
  intro s n g hclear hconf hn hseg hk hg hoff bit
  obtain ⟨v, hv⟩ := exists_sampleFrom (c := s.pullCursor) hg hoff
  refine ⟨v, ?status, ?message, ?micro⟩
  case status =>
    intro hstatus
    rwa [State.sampleFrom, stream_status hstatus] at hv
  case message =>
    intro hmessage
    rwa [State.sampleFrom, stream_message hmessage] at hv
  case micro =>
    intro after
    have hafter : s.cursorAfter s.pullCursor g = after := rfl
    have hseg : (s.atCursor s.pullCursor).curSeg = some g := hseg
    rw [exec_pull_of_configured hclear hconf hn, pullMicroStep_of_sample hseg hk hv, continuePull_emit, hafter]
    by_cases hone : n = 1
    · subst hone
      rfl
    · have hroom : 1 < n := by omega
      simp only [List.length_nil, Nat.zero_add, if_pos hroom, if_neg hone]
      rfl

/-- Settles O31: `pullMicroStep_of_eob`, where a slot that is no filler, or an empty queue, leaves the queue as it is. -/
theorem microStepOnEndOfBurstIsOneFrameAdvance : Obligations.MicroStepOnEndOfBurstIsOneFrameAdvance := by
  unfold Obligations.MicroStepOnEndOfBurstIsOneFrameAdvance
  intro s r g f hseg hk hfc hf
  rw [pullMicroStep_of_eob hseg hk hfc hf, substitute_enterSlot_eq]
  refine congrArg Host.Outcome.next ?_
  apply State.ext
  case inj => cases hq : s.q <;> simp [hq]
  case q => cases hq : s.q <;> simp [hq]
  all_goals rfl

/-! ### One step of the machine -/

/-- What one step can do. Each effect names where its command comes from, and what was checked before it. -/
inductive StepEffect (s : State) : State → Prop
  /-- Nothing but the interleaving changes: the block is idle, or a turn falls where no PULL is in progress. -/
  | hold (ins : List Input) (hpull : s.pull = none) : StepEffect s (s.withInputs ins)
  /-- The PULL in progress ends in the fault state. -/
  | ignorePull (r : PullRun) (ins : List Input) (hfaulted : s.faulted = true) (hpull : s.pull = some r) :
      StepEffect s ((s.withInputs ins).ignorePull r)
  /-- A micro-step of the PULL in progress. -/
  | micro (r : PullRun) (ins : List Input) (t : State) (hclear : s.faulted = false) (hpull : s.pull = some r)
      (h : pullMicroStep r (s.withInputs ins) = .next t) : StepEffect s t
  /-- A command that gives its response and changes nothing else. -/
  | answer (p : Port) (c : Command) (rest : List Input) (code : Code) (data : BitVec 32) (htakes : TakesCommand s p c rest) :
      StepEffect s ((s.accept p rest).respond code data)
  /-- A command that raises a fault. -/
  | raise (p : Port) (c : Command) (rest : List Input) (opc : BitVec 4) (cause : Cause) (hclear : s.faulted = false)
      (htakes : TakesCommand s p c rest) : StepEffect s ((s.accept p rest).raise opc cause)
  /-- A RESET. -/
  | reset (p : Port) (c : Command) (rest : List Input) (htakes : TakesCommand s p c rest)
      (hd : decode c.word c.payload = .ok .reset) : StepEffect s ((s.accept p rest).resetBlock.respond .ok 0)
  /-- A CONFIGURE that is accepted. -/
  | configure (p : Port) (c : Command) (rest : List Input) (image : List Byte) (fs : List Frame)
      (htakes : TakesCommand s p c rest) (hd : decode c.word c.payload = .ok (.configure image))
      (hclear : s.faulted = false) (hconf : s.configured = false) (hlawful : LawfulSuperframe s.build fs) :
      StepEffect s (((s.accept p rest).loadSuperframe fs).respond .ok 0)
  /-- An INJECT that is queued. -/
  | inject (p : Port) (c : Command) (rest : List Input) (f : Frame) (htakes : TakesCommand s p c rest)
      (hd : decode c.word c.payload = .ok (.inject f.record)) (hclear : s.faulted = false) (hconf : s.configured = true)
      (hf : f.Injectable s.build) (hfull : s.queueFull = false) :
      StepEffect s (((s.accept p rest).enqueue f).respond .ok 0)
  /-- A SET_STATUS that is carried out. -/
  | setStatus (p : Port) (c : Command) (rest : List Input) (bit : Bool) (htakes : TakesCommand s p c rest)
      (hclear : s.faulted = false) : StepEffect s (((s.accept p rest).writeStatusCell bit).respond .ok 0)
  /-- A PULL of 0 samples. -/
  | pullZero (p : Port) (c : Command) (rest : List Input) (htakes : TakesCommand s p c rest)
      (hd : decode c.word c.payload = .ok (.pull 0)) (hclear : s.faulted = false) (hconf : s.configured = true) :
      StepEffect s
        ((s.accept p rest).finishPull { port := p, count := 0, out := [], cursor := s.pullCursor })
  /-- The first micro-step of a PULL. -/
  | pull (p : Port) (c : Command) (rest : List Input) (n : Nat) (t : State) (htakes : TakesCommand s p c rest)
      (hd : decode c.word c.payload = .ok (.pull n)) (hclear : s.faulted = false) (hconf : s.configured = true)
      (hn : 1 ≤ n)
      (h : pullMicroStep { port := p, count := n, out := [], cursor := s.pullCursor } (s.accept p rest) = .next t) :
      StepEffect s t

section
variable {s t : State} {p : Port} {c : Command} {rest : List Input}

/-- The effect of a command that a block outside the fault state takes (R63). -/
theorem stepEffect_of_exec {i : Instr} (htakes : TakesCommand s p c rest) (hd : decode c.word c.payload = .ok i)
    (hclear : s.faulted = false) (h : exec i (s.accept p rest) = .next t) : StepEffect s t := by
  by_cases hstays : t.faulted = false
  case neg =>
    obtain ⟨cause, rfl⟩ | hfalse := exec_raises_or_stays_clear (s := s.accept p rest) hclear h
    · exact .raise p c rest i.opcode cause hclear htakes
    · exact absurd hfalse hstays
  case pos =>
    cases i with
    | nop =>
      obtain rfl := Host.Outcome.next.inj h
      exact .answer p c rest .ok 0 htakes
    | reset =>
      obtain rfl := Host.Outcome.next.inj h
      exact .reset p c rest htakes hd
    | configure image =>
      obtain ⟨hconf, fs, -, hlawful, rfl⟩ := exec_configure_inv (s := s.accept p rest) hclear h hstays
      exact .configure p c rest image fs htakes hd hclear hconf hlawful
    | inject record =>
      obtain ⟨hconf, f, rfl, hf, ⟨hfull, rfl⟩ | ⟨-, rfl⟩⟩ := exec_inject_inv (s := s.accept p rest) hclear h hstays
      · exact .inject p c rest f htakes hd hclear hconf hf hfull
      · exact .answer p c rest .full 0 htakes
    | setStatus bit =>
      rw [exec_setStatus_of_clear (s := s.accept p rest) bit hclear] at h
      obtain rfl := Host.Outcome.next.inj h
      exact .setStatus p c rest bit htakes hclear
    | readReg reg =>
      obtain rfl := Host.Outcome.next.inj h
      exact .answer p c rest .ok _ htakes
    | pull n =>
      cases hconf : s.configured with
      | false =>
        rw [exec_pull_of_unconfigured (s := s.accept p rest) n hclear hconf] at h
        obtain rfl := Host.Outcome.next.inj h
        cases hstays
      | true =>
        obtain rfl | hn := Nat.eq_zero_or_pos n
        · rw [exec_pull_zero (s := s.accept p rest) hclear hconf] at h
          obtain rfl := Host.Outcome.next.inj h
          exact .pullZero p c rest htakes hd hclear hconf
        · rw [exec_pull_of_configured (s := s.accept p rest) hclear hconf hn] at h
          exact .pull p c rest n t htakes hd hclear hconf hn h

/-- All that a step can do. -/
theorem stepEffect_of_step (h : step s = .next t) : StepEffect s t := by
  cases hfaulted : s.faulted with
  | false =>
    obtain ⟨hpull, -, rfl⟩ | ⟨rest, hpull, -, rfl⟩ | ⟨r, ins, hpull, -, hresume⟩ | ⟨p, c, rest, e, htakes, -, hillegal⟩ |
      ⟨p, c, rest, i, htakes, hd, hexec⟩ := step_cases h
    · exact .hold t.inputs hpull
    · exact .hold rest hpull
    · rw [resumePull_of_clear (s := s.withInputs ins) hfaulted] at hresume
      exact .micro r ins t hfaulted hpull hresume
    · rw [execIllegal_of_clear _ (s := s.accept p rest) hfaulted] at hillegal
      obtain rfl := Host.Outcome.next.inj hillegal
      exact .raise p c rest _ _ hfaulted htakes
    · exact stepEffect_of_exec htakes hd hfaulted hexec
  | true =>
    obtain ⟨hpull, -, rfl⟩ | ⟨rest, hpull, -, rfl⟩ | ⟨r, ins, hpull, -, hresume⟩ | ⟨p, c, rest, e, htakes, -, hillegal⟩ |
      ⟨p, c, rest, i, htakes, hd, hexec⟩ := step_cases h
    · exact .hold t.inputs hpull
    · exact .hold rest hpull
    · rw [resumePull_of_faulted (s := s.withInputs ins) hfaulted] at hresume
      obtain rfl := Host.Outcome.next.inj hresume
      exact .ignorePull r ins hfaulted hpull
    · rw [execIllegal_of_faulted _ (s := s.accept p rest) hfaulted] at hillegal
      obtain rfl := Host.Outcome.next.inj hillegal
      exact .answer p c rest .ignored 0 htakes
    · obtain ⟨code, data, rfl⟩ | ⟨rfl, rfl⟩ := exec_cases_of_faulted (s := s.accept p rest) hfaulted hexec
      · exact .answer p c rest code data htakes
      · exact .reset p c rest htakes hd

/-- A command that is neither an INJECT nor a SET_STATUS is taken only between two PULLs (R49). -/
theorem pull_none_of_takes {i : Instr} (htakes : TakesCommand s p c rest) (hd : decode c.word c.payload = .ok i)
    (hinject : ∀ record, i ≠ .inject record) (hstatus : ∀ bit, i ≠ .setStatus bit) : s.pull = none := by
  obtain ⟨-, hpull | ⟨r, -, -, hfalls⟩⟩ := htakes
  · exact hpull
  · rw [fallsInsidePull_iff, hd] at hfalls
    obtain ⟨record, h⟩ | ⟨bit, h⟩ := hfalls
    · exact absurd (Except.ok.inj h) (hinject record)
    · exact absurd (Except.ok.inj h) (hstatus bit)

/-- A micro-step leaves the interleaving as its turn left it, so the step is that micro-step. -/
theorem step_eq_pullMicroStep {r : PullRun} {ins : List Input} (hstep : step s = .next t)
    (h : pullMicroStep r (s.withInputs ins) = .next t) : step s = pullMicroStep r { s with inputs := t.inputs } := by
  obtain ⟨-, -, -, -, -, hins, -⟩ := pullMicroStep_keeps h
  rw [hins, hstep]
  exact h.symm

end

/-! ### The frame of a step -/

/-- Settles O50: no effect writes the build. -/
theorem noStepChangesTheBuild : Obligations.NoStepChangesTheBuild := by
  unfold Obligations.NoStepChangesTheBuild
  intro s t h
  cases stepEffect_of_step h with
  | micro r ins _ _ _ hmicro => exact (pullMicroStep_keeps hmicro).1
  | pull p c rest n _ _ _ _ _ _ hmicro => exact (pullMicroStep_keeps hmicro).1
  | _ => simp

/-- Settles O51: only a CONFIGURE and a RESET write the Superframe, and a configured block accepts no CONFIGURE. -/
theorem superframeStaysUntilReset : Obligations.SuperframeStaysUntilReset := by
  unfold Obligations.SuperframeStaysUntilReset
  intro s t hconf h
  cases stepEffect_of_step h with
  | micro r ins _ _ _ hmicro =>
    obtain ⟨-, hconfigured, hsf, hfc, -⟩ := pullMicroStep_keeps hmicro
    exact .inl ⟨hconfigured.trans hconf, hsf, hfc⟩
  | pull p c rest n _ _ _ _ _ _ hmicro =>
    obtain ⟨-, hconfigured, hsf, hfc, -⟩ := pullMicroStep_keeps hmicro
    exact .inl ⟨hconfigured.trans hconf, hsf, hfc⟩
  | reset p c rest htakes hd => exact .inr ⟨rfl, p, c, rest, htakes, hd⟩
  | configure _ _ _ _ _ _ _ _ hunconf => rw [hconf] at hunconf; contradiction
  | _ => exact .inl ⟨hconf, rfl, rfl⟩

/-- Settles O32: of the effects that write the cursor, the micro-steps, a CONFIGURE and a RESET. -/
theorem cursorMovesOnlyByPullConfigureAndReset : Obligations.CursorMovesOnlyByPullConfigureAndReset := by
  unfold Obligations.CursorMovesOnlyByPullConfigureAndReset
  intro s t h
  cases stepEffect_of_step h with
  | micro r ins _ hclear hpull hmicro =>
    have hstep := step_eq_pullMicroStep h hmicro
    cases microEffect_of_next hmicro with
    | goOn => exact .inl ⟨rfl, rfl, rfl⟩
    | advance => exact .inr (.inl ⟨hclear, rfl, .inl ⟨r, hpull, hstep⟩⟩)
    | finish => exact .inr (.inl ⟨hclear, rfl, .inl ⟨r, hpull, hstep⟩⟩)
  | pull p c rest n _ htakes hd hclear _ _ hmicro =>
    cases microEffect_of_next hmicro with
    | goOn => exact .inl ⟨rfl, rfl, rfl⟩
    | advance => exact .inr (.inl ⟨hclear, rfl, .inr ⟨p, c, rest, n, htakes, hd⟩⟩)
    | finish => exact .inr (.inl ⟨hclear, rfl, .inr ⟨p, c, rest, n, htakes, hd⟩⟩)
  | reset p c rest htakes hd => exact .inr (.inr ⟨rfl, rfl, rfl, p, c, rest, htakes, .inl hd⟩)
  | configure p c rest image fs htakes hd => exact .inr (.inr ⟨rfl, rfl, rfl, p, c, rest, htakes, .inr ⟨image, hd⟩⟩)
  | _ => exact .inl ⟨rfl, rfl, rfl⟩

/-- Settles O35: a micro-step after which the PULL goes on writes the PULL alone, and the commands that fall inside a PULL
leave it and the cursor. -/
theorem pullStaysInOneFrame : Obligations.PullStaysInOneFrame := by
  unfold Obligations.PullStaysInOneFrame
  intro s t r r' h hpull hpull'
  have hsame (hkept : some r = some r') :
      r'.port = r.port ∧ r'.count = r.count ∧ (r'.out = r.out ∨ ∃ v, r'.out = r.out ++ [v]) := by
    obtain rfl := Option.some.inj hkept
    exact ⟨rfl, rfl, .inl rfl⟩
  cases stepEffect_of_step h with
  | hold _ hnone => rw [hpull] at hnone; contradiction
  | ignorePull => cases hpull'
  | reset => cases hpull'
  | pullZero => cases hpull'
  | configure p c rest image fs htakes hd =>
    have hnone := pull_none_of_takes htakes hd (by simp) (by simp)
    rw [hpull] at hnone
    contradiction
  | pull p c rest n _ htakes hd =>
    have hnone := pull_none_of_takes htakes hd (by simp) (by simp)
    rw [hpull] at hnone
    contradiction
  | micro r₀ ins _ _ hpull₀ hmicro =>
    obtain rfl := Option.some.inj (hpull.symm.trans hpull₀)
    cases microEffect_of_next hmicro with
    | advance => cases hpull'
    | finish => cases hpull'
    | goOn g v =>
      obtain rfl := Option.some.inj hpull'
      exact ⟨rfl, rfl, rfl, rfl, rfl, rfl, rfl, rfl, .inr ⟨v, rfl⟩⟩
  | answer | raise | inject | setStatus =>
    obtain ⟨hport, hcount, hout⟩ := hsame (hpull.symm.trans hpull')
    exact ⟨rfl, rfl, rfl, hport, hcount, rfl, rfl, rfl, hout⟩

end Sys2Proof.Machine
end

section
/-! The invariant of every reachable state (R17 to R30): power-on meets it, every step keeps it, and no step from a state that
meets it stops. What it says of the queue and of the responses of a step follows. -/

namespace Sys2Proof.Machine

/-! ### Segments of a legal Frame (R23) -/

section
variable {b : Build} {f : Frame}

/-- The segment count of a legal Frame fits the cursor's segment index (R6, R10). -/
theorem segs_length_lt (hf : f.Legal b) : f.segs.length < 2 ^ 16 := by
  obtain ⟨hlen, -, -⟩ := hf
  have hmax := b.maxSegs_range.2
  omega

/-- A legal Frame has a Segment 0. -/
theorem exists_segment_zero (hf : f.Legal b) : ∃ g, f.segs[0]? = some g := by
  obtain ⟨-, ⟨heob, -⟩, -⟩ := hf
  exact ⟨_, List.getElem?_eq_getElem (List.length_pos_of_ne_nil (endsInEob_ne_nil heob))⟩

theorem segment_legal (hf : f.Legal b) {i : Nat} {g : Segment} (hg : f.segs[i]? = some g) : g.Legal b :=
  hf.2.2 g (List.mem_of_getElem? hg)

/-- Of a legal Frame's Segments the EOB is the last (R23). -/
theorem eob_iff_last (hf : f.Legal b) {i : Nat} {g : Segment} (hg : f.segs[i]? = some g) :
    g.kind = .eob ↔ i + 1 = f.segs.length := by
  obtain ⟨-, ⟨heob, honly⟩, -⟩ := hf
  obtain ⟨hi, rfl⟩ := List.getElem?_eq_some_iff.mp hg
  constructor
  · intro hk
    by_contra hne
    have hmem : f.segs[i] ∈ f.segs.dropLast := by
      rw [List.mem_iff_getElem]
      exact ⟨i, by rw [List.length_dropLast]; omega, List.getElem_dropLast ..⟩
    exact honly _ hmem hk
  · intro hlast
    have hget : f.segs.getLast? = some f.segs[i] := by
      rw [List.getLast?_eq_getElem?, ← hlast, Nat.add_sub_cancel, hg]
    rw [endsInEob, hget, decide_eq_true_eq] at heob
    exact Option.some.inj heob

/-- Behind a Segment that is no EOB a legal Frame has another one (R23). -/
theorem exists_next_segment (hf : f.Legal b) {i : Nat} {g : Segment} (hg : f.segs[i]? = some g) (hk : g.kind ≠ .eob) :
    ∃ g', f.segs[i + 1]? = some g' := by
  obtain ⟨hi, -⟩ := List.getElem?_eq_some_iff.mp hg
  have hlast := mt (eob_iff_last hf hg).mpr hk
  exact ⟨_, List.getElem?_eq_getElem (by omega)⟩

end

/-! ### The cursor invariants (R30) -/

section
variable {s t : State}

/-- Two states that agree on the cursor, the Superframe and the injected Frame have the same current Segment (R26). -/
theorem curSeg_congr (hsf : t.sf = s.sf) (hslot : t.slot = s.slot) (hinj : t.inj = s.inj) (hseg : t.seg = s.seg) :
    t.curSeg = s.curSeg := by
  simp only [State.curSeg, State.curFrame, hsf, hslot, hinj, hseg]

/-- The cursor invariants speak of the cursor, the Superframe, the injected Frame and the build alone. -/
theorem State.CursorOk.congr (h : s.CursorOk) (hbuild : t.build = s.build) (hfc : t.fc = s.fc) (hsf : t.sf = s.sf)
    (hslot : t.slot = s.slot) (hinj : t.inj = s.inj) (hseg : t.seg = s.seg) (hoff : t.off = s.off) : t.CursorOk := by
  obtain ⟨hlt, hsegment, hover⟩ := h
  rw [← curSeg_congr hsf hslot hinj hseg] at hsegment
  constructor
  · rwa [hslot, hfc]
  · rwa [hoff, hbuild]
  · rwa [hinj, hsf, hslot]

/-- The start of a legal Frame is a lawful cursor. -/
theorem cursorOk_at_start {f : Frame} (hslot : s.slot.toNat < s.fc.toNat) (hf : s.curFrame = some f) (hlegal : f.Legal s.build)
    (hseg : s.seg = 0) (hoff : s.off = 0)
    (hover : s.inj ≠ none → ∃ f, s.sf[s.slot.toNat]? = some f ∧ f.filler = true) : s.CursorOk := by
  obtain ⟨g, hg⟩ := exists_segment_zero hlegal
  refine ⟨hslot, ⟨g, curSeg_eq_some_iff.mpr ⟨f, hf, ?_⟩, fun _ => hoff, fun hk => ?_⟩, hover⟩
  · rw [hseg]
    exact hg
  · rw [hoff]
    exact len_pos (segment_legal hlegal hg) hk

/-- The Segment index behind a Segment that is no EOB does not wrap (R10). -/
theorem seg_succ_toNat {f : Frame} {g : Segment} {seg : BitVec 16} (hlegal : f.Legal s.build)
    (hg : f.segs[seg.toNat]? = some g) : (seg + 1).toNat = seg.toNat + 1 := by
  obtain ⟨hi, -⟩ := List.getElem?_eq_some_iff.mp hg
  have hmax := segs_length_lt hlegal
  rw [BitVec.toNat_add]
  exact Nat.mod_eq_of_lt (by simp; omega)

/-- The offset behind a sample of a legal Segment does not wrap (R10). -/
theorem off_succ_toNat {g : Segment} {off : BitVec 32} (hg : g.Legal s.build) (hoff : off.toNat < g.len s.build) :
    (off + 1).toNat = off.toNat + 1 := by
  have hmax := len_lt hg
  rw [BitVec.toNat_add]
  exact Nat.mod_eq_of_lt (by simp; omega)

/-- The cursor behind a sample is lawful again (R85, R86). -/
theorem cursorOk_after {c : PullCursor} {f : Frame} {g : Segment} (h : (s.atCursor c).CursorOk)
    (hf : s.curFrame = some f) (hlegal : f.Legal s.build) (hseg : (s.atCursor c).curSeg = some g) (hk : g.kind ≠ .eob) :
    (s.atCursor (s.cursorAfter c g)).CursorOk := by
  obtain ⟨hslot, ⟨g₀, hg₀, -, hoff⟩, hover⟩ := h
  obtain rfl := Option.some.inj (hseg.symm.trans hg₀)
  have hoff : c.off.toNat < g.len s.build := hoff hk
  obtain ⟨f₀, hf₀, hg⟩ := curSeg_eq_some_iff.mp hseg
  obtain rfl : f = f₀ := Option.some.inj (hf.symm.trans hf₀)
  have hg : f.segs[c.seg.toNat]? = some g := hg
  refine ⟨hslot, ?_, hover⟩
  by_cases hend : c.off.toNat + 1 = g.len s.build
  · obtain ⟨g', hg'⟩ := exists_next_segment hlegal hg hk
    refine ⟨g', curSeg_eq_some_iff.mpr ⟨f, hf, ?_⟩, fun _ => ?_, fun hk' => ?_⟩
    · simp only [State.atCursor_seg, State.cursorAfter, if_pos hend]
      rwa [seg_succ_toNat hlegal hg]
    · simp only [State.atCursor_off, State.cursorAfter, if_pos hend]
    · simp only [State.atCursor_off, State.cursorAfter, if_pos hend]
      exact len_pos (segment_legal hlegal hg') hk'
  · refine ⟨g, curSeg_eq_some_iff.mpr ⟨f, hf, ?_⟩, fun hk' => absurd hk' hk, fun _ => ?_⟩
    · simp only [State.atCursor_seg, State.cursorAfter, if_neg hend]
      exact hg
    · simp only [State.atCursor_off, State.atCursor_build, State.cursorAfter, if_neg hend]
      rw [off_succ_toNat (segment_legal hlegal hg) hoff]
      omega

end

/-! ### What the invariant gives -/

section
variable {s : State}

/-- A PULL is in progress in a configured block alone (R17, R84). -/
theorem State.Inv.configured_of_pull (h : s.Inv) {r : PullRun} (hpull : s.pull = some r) : s.configured = true := by
  by_contra hconf
  obtain ⟨-, -, -, -, -, -, -, hnone⟩ := h.unconfigured (Bool.eq_false_iff.mpr hconf)
  rw [hpull] at hnone
  contradiction

/-- Every Frame of the Superframe is legal (R24). -/
theorem State.Inv.frame_legal (h : s.Inv) (hconf : s.configured = true) {i : Nat} {f : Frame} (hf : s.sf[i]? = some f) :
    f.Legal s.build := by
  obtain ⟨⟨⟨-, hall, -⟩, -, -⟩, -⟩ := h.superframe hconf
  exact (hall f (List.mem_of_getElem? hf)).1

/-- The current Frame is legal, be it the Superframe's or an injected one (R24, R29). -/
theorem State.Inv.curFrame_legal (h : s.Inv) (hconf : s.configured = true) {f : Frame} (hf : s.curFrame = some f) :
    f.Legal s.build := by
  unfold State.curFrame at hf
  cases hinj : s.inj with
  | none => rw [hinj] at hf; exact h.frame_legal hconf hf
  | some j =>
    rw [hinj] at hf
    obtain rfl := Option.some.inj hf
    exact (h.injected j hinj).1

/-- The next slot of a configured block holds a Frame (R24, R87). -/
theorem State.Inv.exists_next_frame (h : s.Inv) (hconf : s.configured = true) :
    s.fc ≠ 0 ∧ (s.slot.toNat + 1) % s.fc.toNat < s.fc.toNat ∧ ∃ f, s.sf[(s.slot.toNat + 1) % s.fc.toNat]? = some f := by
  obtain ⟨⟨⟨⟨hpos, -⟩, -, -⟩, -, -⟩, hfc⟩ := h.superframe hconf
  have hlt : (s.slot.toNat + 1) % s.fc.toNat < s.fc.toNat := Nat.mod_lt _ (by omega)
  refine ⟨fun hzero => ?_, hlt, _, List.getElem?_eq_getElem (by omega)⟩
  rw [← hfc, hzero] at hpos
  exact absurd hpos (by decide)

end

/-! ### Updates that keep the invariant -/

section
variable {s t : State}

/-- The two clauses on the fault record (R18, R106). -/
def RecordOk (s : State) : Prop :=
  (s.faulted = false → s.faultCause = 0 ∧ s.faultOpc = 0) ∧ (s.faulted = true → ∃ c : Cause, s.faultCause = c.code)

theorem State.Inv.recordOk (h : s.Inv) : RecordOk s :=
  ⟨h.record_clear, h.record_known⟩

theorem RecordOk.congr (h : RecordOk s) (hfaulted : t.faulted = s.faulted) (hcause : t.faultCause = s.faultCause)
    (hopc : t.faultOpc = s.faultOpc) : RecordOk t := by
  rwa [RecordOk, hfaulted, hcause, hopc]

/-- The clauses on one PULL in progress: room, no "unused" sample, and a lawful cursor (R30, R56, R64, R84). -/
def PullOk (s : State) (r : PullRun) : Prop :=
  (r.out.length < r.count ∧ r.count ≤ 0xFFFFFF ∧ Sample.unused ∉ r.out) ∧ (s.atCursor r.cursor).CursorOk

/-- A configured block keeps the invariant under every update that keeps its Superframe, its slot, its injected Frame and its
queue, where the fault record, the cursor and the PULL in progress are lawful again. -/
theorem State.Inv.of_sameStores (h : s.Inv) (hconf : s.configured = true) (hconfigured : t.configured = s.configured)
    (hfc : t.fc = s.fc) (hsf : t.sf = s.sf) (hinj : t.inj = s.inj) (hq : t.q = s.q) (hbuild : t.build = s.build)
    (hrecord : RecordOk t) (hcursor : t.CursorOk) (hpull : ∀ r, t.pull = some r → PullOk t r) : t.Inv where
  record_clear := hrecord.1
  record_known := hrecord.2
  unconfigured hunconf := by rw [hconfigured, hconf] at hunconf; contradiction
  superframe _ := by rw [hbuild, hsf, hfc]; exact h.superframe hconf
  queue := by rw [hq, hbuild]; exact h.queue
  queue_bound := by rw [hq, hbuild]; exact h.queue_bound
  injected := by rw [hinj, hbuild]; exact h.injected
  cursor _ := hcursor
  pull_room r hr := (hpull r hr).1
  pull_cursor r hr := (hpull r hr).2

/-- The invariant is kept by every update of the fault record, the status cell, the latch, the interleaving and the
responses, and by the end of a PULL. -/
theorem State.Inv.of_sameSchedule (h : s.Inv) (hconfigured : t.configured = s.configured) (hfc : t.fc = s.fc) (hsf : t.sf = s.sf)
    (hslot : t.slot = s.slot) (hseg : t.seg = s.seg) (hoff : t.off = s.off) (hinj : t.inj = s.inj) (hq : t.q = s.q)
    (hbuild : t.build = s.build) (hrecord : RecordOk t) (hpull : t.pull = s.pull ∨ t.pull = none) : t.Inv where
  record_clear := hrecord.1
  record_known := hrecord.2
  unconfigured hunconf := by
    rw [hconfigured] at hunconf
    obtain ⟨hsf', hfc', hslot', hseg', hoff', hinj', hq', hnone⟩ := h.unconfigured hunconf
    refine ⟨hsf.trans hsf', hfc.trans hfc', hslot.trans hslot', hseg.trans hseg', hoff.trans hoff', hinj.trans hinj',
      hq.trans hq', ?_⟩
    exact hpull.elim (fun hsame => hsame.trans hnone) id
  superframe hconf := by rw [hbuild, hsf, hfc]; exact h.superframe (hconfigured ▸ hconf)
  queue := by rw [hq, hbuild]; exact h.queue
  queue_bound := by rw [hq, hbuild]; exact h.queue_bound
  injected := by rw [hinj, hbuild]; exact h.injected
  cursor hconf := (h.cursor (hconfigured ▸ hconf)).congr hbuild hfc hsf hslot hinj hseg hoff
  pull_room r hr := by
    obtain hsame | hnone := hpull
    · exact h.pull_room r (hsame ▸ hr)
    · rw [hnone] at hr; contradiction
  pull_cursor r hr := by
    obtain hsame | hnone := hpull
    · exact (h.pull_cursor r (hsame ▸ hr)).congr hbuild hfc hsf hslot hinj rfl rfl
    · rw [hnone] at hr; contradiction

/-- Power-on meets the invariant, in every build (R38). -/
theorem powerOn_inv (b : Build) : (State.powerOn b).Inv where
  record_clear _ := ⟨rfl, rfl⟩
  record_known h := by cases h
  unconfigured _ := ⟨rfl, rfl, rfl, rfl, rfl, rfl, rfl, rfl⟩
  superframe h := by cases h
  queue := by simp [State.powerOn]
  queue_bound _ := Nat.zero_le _
  injected _ h := by cases h
  cursor h := by cases h
  pull_room _ h := by cases h
  pull_cursor _ h := by cases h

/-- A RESET gives the block of power-on, which meets the invariant (R103, R118). -/
theorem resetBlock_inv (s : State) : s.resetBlock.Inv :=
  (powerOn_inv s.build).of_sameSchedule rfl rfl rfl rfl rfl rfl rfl rfl rfl (powerOn_inv s.build).recordOk (.inl rfl)

/-- What lies outside the block is not in the invariant. -/
theorem State.Inv.respond (h : s.Inv) (code : Code) (data : BitVec 32) : (s.respond code data).Inv :=
  h.of_sameSchedule rfl rfl rfl rfl rfl rfl rfl rfl rfl h.recordOk (.inl rfl)

theorem State.Inv.accept (h : s.Inv) (p : Port) (rest : List Input) : (s.accept p rest).Inv :=
  h.of_sameSchedule rfl rfl rfl rfl rfl rfl rfl rfl rfl h.recordOk (.inl rfl)

theorem State.Inv.withInputs (h : s.Inv) (ins : List Input) : (s.withInputs ins).Inv :=
  h.of_sameSchedule rfl rfl rfl rfl rfl rfl rfl rfl rfl h.recordOk (.inl rfl)

/-- A fault entry records a cause of R106. -/
theorem State.Inv.raise (h : s.Inv) (opc : BitVec 4) (cause : Cause) : (s.raise opc cause).Inv :=
  have hrecord : RecordOk (s.raise opc cause) := ⟨nofun, fun _ => ⟨cause, rfl⟩⟩
  h.of_sameSchedule rfl rfl rfl rfl rfl rfl rfl rfl rfl hrecord (.inl rfl)

theorem State.Inv.ignorePull (h : s.Inv) (r : PullRun) : (s.ignorePull r).Inv :=
  h.of_sameSchedule rfl rfl rfl rfl rfl rfl rfl rfl rfl h.recordOk (.inr rfl)

theorem State.Inv.finishPull (h : s.Inv) (r : PullRun) : (s.finishPull r).Inv :=
  h.of_sameSchedule rfl rfl rfl rfl rfl rfl rfl rfl rfl h.recordOk (.inr rfl)

theorem State.Inv.writeStatusCell (h : s.Inv) (bit : Bool) : (s.writeStatusCell bit).Inv :=
  h.of_sameSchedule rfl rfl rfl rfl rfl rfl rfl rfl rfl h.recordOk (.inl rfl)

/-- An accepted Superframe is entered at the start of its first Frame (R80). -/
theorem State.Inv.loadSuperframe (h : s.Inv) {fs : List Frame} (hconf : s.configured = false) (hlawful : LawfulSuperframe s.build fs) :
    (s.loadSuperframe fs).Inv := by
  obtain ⟨-, -, -, -, -, -, hq, hnone⟩ := h.unconfigured hconf
  have hcount := lawfulSuperframe_count hlawful
  have hwhole := hlawful
  obtain ⟨⟨⟨hpos, -⟩, hall, -⟩, -, -⟩ := hlawful
  obtain ⟨f, fs', rfl⟩ := List.exists_cons_of_length_pos hpos
  have hcursor : (s.loadSuperframe (f :: fs')).CursorOk :=
    cursorOk_at_start (f := f) (by rw [State.loadSuperframe_fc, hcount]; exact hpos) rfl
      (hall f List.mem_cons_self).1 rfl rfl fun hinj => absurd rfl hinj
  exact
    { record_clear := h.record_clear
      record_known := h.record_known
      unconfigured := fun hunconf => by cases hunconf
      superframe := fun _ => ⟨hwhole, hcount⟩
      queue := by simp [hq]
      queue_bound := fun _ => by simp [hq]
      injected := fun _ hinj => by cases hinj
      cursor := fun _ => hcursor
      pull_room := fun r hr => by rw [State.loadSuperframe_pull, hnone] at hr; contradiction
      pull_cursor := fun r hr => by rw [State.loadSuperframe_pull, hnone] at hr; contradiction }

/-- An injectable Frame joins a queue that is not full (R94, R96). -/
theorem State.Inv.enqueue (h : s.Inv) {f : Frame} (hconf : s.configured = true) (hf : f.Injectable s.build)
    (hfull : s.queueFull = false) : (s.enqueue f).Inv where
  record_clear := h.record_clear
  record_known := h.record_known
  unconfigured hunconf := by rw [State.enqueue_configured, hconf] at hunconf; contradiction
  superframe := h.superframe
  queue x hx := by
    obtain hx | hx := List.mem_append.mp hx
    · exact h.queue x hx
    · rwa [List.mem_singleton.mp hx]
  queue_bound hfinite := by
    have hbound := h.queue_bound hfinite
    have hne : s.q.length ≠ s.build.qdepth := fun heq =>
      Bool.eq_false_iff.mp hfull (queueFull_iff.mpr ⟨hfinite, heq⟩)
    simp only [State.enqueue_q, State.enqueue_build, List.length_append, List.length_singleton]
    omega
  injected := h.injected
  cursor _ := (h.cursor hconf).congr rfl rfl rfl rfl rfl rfl rfl
  pull_room := h.pull_room
  pull_cursor r hr := (h.pull_cursor r hr).congr rfl rfl rfl rfl rfl rfl rfl

/-! ### Micro-steps and the invariant -/

/-- The slot entered by a frame advance holds a legal Frame, and a lawful cursor stands at its start (R87). -/
theorem State.Inv.advance (h : s.Inv) (hconf : s.configured = true) (c : PullCursor) (r : PullRun) {f : Frame}
    (hf : s.sf[(s.slot.toNat + 1) % s.fc.toNat]? = some f) :
    ((((s.atCursor c).enterSlot ((s.slot.toNat + 1) % s.fc.toNat)).substitute f).finishPull r).Inv := by
  obtain ⟨-, hlt, -⟩ := h.exists_next_frame hconf
  have hslot : (BitVec.ofNat 16 ((s.slot.toNat + 1) % s.fc.toNat)).toNat = (s.slot.toNat + 1) % s.fc.toNat :=
    Nat.mod_eq_of_lt (hlt.trans s.fc.isLt)
  rw [substitute_enterSlot_eq]
  have hinjected (j : Frame) (hj : (if f.filler then s.q.head? else none) = some j) : j.Injectable s.build := by
    cases hfiller : f.filler with
    | false => rw [hfiller] at hj; contradiction
    | true => rw [hfiller] at hj; exact h.queue j (List.mem_of_mem_head? hj)
  constructor
  case record_clear => exact h.record_clear
  case record_known => exact h.record_known
  case unconfigured => exact fun hunconf => absurd (hconf.symm.trans hunconf) (by decide)
  case superframe => exact h.superframe
  case injected => exact hinjected
  case pull_room => exact fun _ hr => by cases hr
  case pull_cursor => exact fun _ hr => by cases hr
  case queue =>
    intro x hx
    refine h.queue x ?_
    cases hfiller : f.filler with
    | false => simpa [hfiller] using hx
    | true => exact List.mem_of_mem_tail (by simpa [hfiller] using hx)
  case queue_bound =>
    intro hfinite
    refine le_trans ?_ (h.queue_bound hfinite)
    cases f.filler <;> simp
  case cursor =>
    intro _
    have hover : (if f.filler then s.q.head? else none) ≠ none → f.filler = true := fun hne => by
      by_contra hfiller
      exact hne (if_neg hfiller)
    cases hinj : (if f.filler then s.q.head? else none) with
    | none =>
      refine cursorOk_at_start (f := f) (hslot.trans_lt hlt) ?_ (h.frame_legal hconf hf) rfl rfl fun hne => absurd hinj hne
      simp only [State.curFrame, State.finishPull, State.atCursor_q, hinj, hslot, hf, State.atCursor_sf]
    | some j =>
      refine cursorOk_at_start (f := j) (hslot.trans_lt hlt) ?_ (hinjected j hinj).1 rfl rfl fun hne => ⟨f, hslot.symm ▸ hf, hover hne⟩
      simp only [State.curFrame, State.finishPull, State.atCursor_q, hinj]

/-- A sample at a lawful cursor of a legal Frame is none that is "unused" (R20, R64). -/
theorem sampleFrom_ne_unused {c : PullCursor} {g : Segment} {v : Sample} (hg : g.Legal s.build)
    (hv : s.sampleFrom c g = some v) : v ≠ .unused := by
  rintro rfl
  exact unused_not_mem_stream hg _ (List.mem_of_getElem? hv)

/-- A micro-step from a lawful cursor keeps the invariant, whatever PULL the block held in progress before it (R86). -/
theorem State.Inv.microStep {r : PullRun} (h : s.Inv) (hconf : s.configured = true) (hr : PullOk s r)
    (hmicro : pullMicroStep r s = .next t) : t.Inv := by
  obtain ⟨⟨-, hmax, hunused⟩, hcursor⟩ := hr
  have hsample {g : Segment} {v : Sample} (hseg : (s.atCursor r.cursor).curSeg = some g) (hk : g.kind ≠ .eob)
      (hv : s.sampleFrom r.cursor g = some v) :
      (s.atCursor (s.cursorAfter r.cursor g)).CursorOk ∧ v ≠ .unused := by
    obtain ⟨f, hf, hg⟩ := curSeg_eq_some_iff.mp hseg
    have hlegal : f.Legal s.build := h.curFrame_legal hconf hf
    exact ⟨cursorOk_after hcursor hf hlegal hseg hk, sampleFrom_ne_unused (segment_legal hlegal hg) hv⟩
  cases microEffect_of_next hmicro with
  | advance g f hseg hk hfc hf => exact h.advance hconf r.cursor r hf
  | goOn g v hseg hk hv hroom =>
    obtain ⟨hafter, hne⟩ := hsample hseg hk hv
    refine h.of_sameStores hconf rfl rfl rfl rfl rfl rfl h.recordOk ((h.cursor hconf).congr rfl rfl rfl rfl rfl rfl rfl) ?_
    intro r' hr'
    obtain rfl := Option.some.inj hr'
    refine ⟨⟨?_, hmax, ?_⟩, hafter.congr rfl rfl rfl rfl rfl rfl rfl⟩
    · rw [emit_out_length]
      exact hroom
    · simp [PullRun.emit, hunused, hne.symm]
  | finish g v hseg hk hv hfull =>
    obtain ⟨hafter, -⟩ := hsample hseg hk hv
    exact h.of_sameStores hconf rfl rfl rfl rfl rfl rfl h.recordOk (hafter.congr rfl rfl rfl rfl rfl rfl rfl)
      fun r' hr' => by cases hr'

/-- The PULL in progress of a lawful state is lawful. -/
theorem State.Inv.pullOk (h : s.Inv) {r : PullRun} (hpull : s.pull = some r) : PullOk s r :=
  ⟨h.pull_room r hpull, h.pull_cursor r hpull⟩

/-- A PULL that starts at the block's cursor is lawful (R56, R84). -/
theorem State.Inv.pullOk_start (h : s.Inv) (hconf : s.configured = true) (p : Port) {n : Nat} (hpos : 1 ≤ n) (hmax : n ≤ 0xFFFFFF) :
    PullOk s { port := p, count := n, out := [], cursor := s.pullCursor } :=
  ⟨⟨hpos, hmax, by simp⟩, h.cursor hconf⟩

/-- The operand of a decoded PULL fits its 24 bits (R56). -/
theorem count_le_of_decode {w : Word} {payload : List Byte} {n : Nat} (h : decode w payload = .ok (.pull n)) : n ≤ 0xFFFFFF :=
  of_decide_eq_true (operands_of_decode h).1

end

/-- Settles O48: `powerOn_inv`. -/
theorem powerOnMeetsTheInvariant : Obligations.PowerOnMeetsTheInvariant := by
  unfold Obligations.PowerOnMeetsTheInvariant
  exact ⟨powerOn_inv Config.build, powerOn_inv⟩

/-- Settles O47: each effect of a step keeps the invariant. -/
theorem everyStepKeepsTheInvariant : Obligations.EveryStepKeepsTheInvariant := by
  unfold Obligations.EveryStepKeepsTheInvariant
  intro s t hs h
  cases stepEffect_of_step h with
  | hold ins => exact hs.withInputs ins
  | ignorePull r ins => exact (hs.withInputs ins).ignorePull r
  | micro r ins _ _ hpull hmicro =>
    exact (hs.withInputs ins).microStep (hs.configured_of_pull hpull) ((hs.withInputs ins).pullOk hpull) hmicro
  | answer p c rest code data => exact (hs.accept p rest).respond code data
  | raise p c rest opc cause => exact (hs.accept p rest).raise opc cause
  | reset p c rest => exact (resetBlock_inv _).respond .ok 0
  | configure p c rest image fs _ _ _ hconf hlawful => exact ((hs.accept p rest).loadSuperframe hconf hlawful).respond .ok 0
  | inject p c rest f _ _ _ hconf hf hfull => exact ((hs.accept p rest).enqueue hconf hf hfull).respond .ok 0
  | setStatus p c rest bit => exact ((hs.accept p rest).writeStatusCell bit).respond .ok 0
  | pullZero p c rest => exact (hs.accept p rest).finishPull _
  | pull p c rest n _ _ hd _ hconf hn hmicro =>
    exact (hs.accept p rest).microStep hconf ((hs.accept p rest).pullOk_start hconf p hn (count_le_of_decode hd)) hmicro

/-! ### Progress -/

section
variable {s : State}

/-- A micro-step from a lawful cursor does not stop (R30, R86). -/
theorem State.Inv.exists_microStep {r : PullRun} (h : s.Inv) (hconf : s.configured = true)
    (hcursor : (s.atCursor r.cursor).CursorOk) : ∃ t, pullMicroStep r s = .next t := by
  obtain ⟨-, ⟨g, hseg, -, hoff⟩, -⟩ := hcursor
  by_cases hk : g.kind = .eob
  · obtain ⟨hfc, -, f, hf⟩ := h.exists_next_frame hconf
    exact ⟨_, pullMicroStep_of_eob hseg hk hfc hf⟩
  · obtain ⟨f, hf, hg⟩ := curSeg_eq_some_iff.mp hseg
    obtain ⟨v, hv⟩ := exists_sampleFrom (segment_legal (h.curFrame_legal hconf hf) hg) (hoff hk)
    exact ⟨_, pullMicroStep_of_sample hseg hk hv⟩

/-- A turn of the PULL in progress does not stop. -/
theorem State.Inv.exists_resumePull (h : s.Inv) {r : PullRun} (hpull : s.pull = some r) : ∃ t, resumePull r s = .next t := by
  cases hfaulted : s.faulted with
  | true => exact ⟨_, resumePull_of_faulted hfaulted⟩
  | false =>
    rw [resumePull_of_clear hfaulted]
    exact h.exists_microStep (h.configured_of_pull hpull) (h.pull_cursor r hpull)

/-- Behind the fault-state check a command goes on where it goes on outside the fault state. -/
theorem exists_unlessFaulted {run : Result} (h : s.faulted = false → ∃ t, run = .next t) : ∃ t, unlessFaulted s run = .next t := by
  cases hfaulted : s.faulted with
  | true => exact ⟨_, unlessFaulted_of_faulted hfaulted⟩
  | false => rw [unlessFaulted_of_clear hfaulted]; exact h hfaulted

/-- No command stops in a lawful state. -/
theorem State.Inv.exists_exec (h : s.Inv) (i : Instr) : ∃ t, exec i s = .next t := by
  cases i with
  | nop => exact ⟨_, rfl⟩
  | reset => exact ⟨_, rfl⟩
  | readReg reg => exact ⟨_, rfl⟩
  | setStatus bit => exact exists_unlessFaulted fun _ => ⟨_, rfl⟩
  | configure image =>
    refine exists_unlessFaulted fun _ => ?_
    cases s.configured with
    | true => exact ⟨_, rfl⟩
    | false => cases parseSuperframe s.build image <;> exact ⟨_, rfl⟩
  | inject record =>
    refine exists_unlessFaulted fun _ => ?_
    cases s.configured with
    | false => exact ⟨_, rfl⟩
    | true =>
      cases parseInject s.build record with
      | error cause => exact ⟨_, rfl⟩
      | ok f => cases s.queueFull <;> exact ⟨_, rfl⟩
  | pull n =>
    refine exists_unlessFaulted fun _ => ?_
    cases hconf : s.configured with
    | false => exact ⟨_, rfl⟩
    | true =>
      by_cases hn : n = 0
      · exact ⟨_, by rw [if_pos rfl, beginPull, if_pos hn]⟩
      · obtain ⟨t, ht⟩ := h.exists_microStep (r := { port := s.port, count := n, out := [], cursor := s.pullCursor }) hconf
          (h.cursor hconf)
        exact ⟨t, by rw [if_pos rfl, beginPull, if_neg hn, ht]⟩

end

/-- Settles O49: each turn of the interleaving goes on: a command by `Inv.exists_exec`, a turn of the PULL in progress by
`Inv.exists_resumePull`. -/
theorem noStopFromALawfulState : Obligations.NoStopFromALawfulState := by
  unfold Obligations.NoStopFromALawfulState
  intro s hs
  have hdeliver {p : Port} {c : Command} {rest : List Input} (htakes : TakesCommand s p c rest) : ∃ t, step s = .next t := by
    cases hd : decode c.word c.payload with
    | error e =>
      rw [step_of_decode_error htakes hd]
      exact exists_unlessFaulted fun _ => ⟨_, rfl⟩
    | ok i =>
      rw [step_of_decode_ok htakes hd]
      exact (hs.accept p rest).exists_exec i
  cases hpull : s.pull with
  | none =>
    match hins : s.inputs with
    | [] => exact ⟨s, idleBlockHoldsItsState s hpull hins⟩
    | .pullTurn :: rest => exact ⟨s.withInputs rest, by simp only [step, nextTurn, hpull, hins]⟩
    | .command p c :: rest => exact hdeliver ⟨hins, .inl hpull⟩
  | some r =>
    match hins : s.inputs with
    | [] => rw [step_of_waitsFor hpull (.inl hins)]; exact hs.exists_resumePull hpull
    | .pullTurn :: rest => rw [step_of_pullTurn hpull hins]; exact (hs.withInputs rest).exists_resumePull hpull
    | .command p c :: rest =>
      cases hwaits : waitsForPull r p c with
      | true => rw [step_of_waitsFor hpull (.inr ⟨p, c, rest, hins, hwaits⟩)]; exact hs.exists_resumePull hpull
      | false =>
        rw [waitsForPull, Bool.or_eq_false_iff, Bool.not_eq_false', decide_eq_false_iff_not] at hwaits
        exact hdeliver ⟨hins, .inr ⟨r, hpull, hwaits.2, hwaits.1⟩⟩

end Sys2Proof.Machine
end

section
/-! Rules of the whole machine that lean on the invariant: the inject queue (R29, R97, R127), the responses (R64, R69) and the end
of a PULL (R89). -/

namespace Sys2Proof.Machine

/-! ### The queue (R29, R97) -/

/-- What a micro-step does to the queue: it leaves it, or its frame advance into a filler slot takes the head. -/
theorem queue_of_microStep {r : PullRun} {s t : State} (h : pullMicroStep r s = .next t) :
    t.q = s.q ∨ ∃ f g own, s.q = f :: t.q ∧ t.inj = some f ∧ (s.atCursor r.cursor).curSeg = some g ∧ g.kind = .eob ∧
      t.slot = BitVec.ofNat 16 ((s.slot.toNat + 1) % s.fc.toNat) ∧
      s.sf[(s.slot.toNat + 1) % s.fc.toNat]? = some own ∧ own.filler = true := by
  cases microEffect_of_next h with
  | goOn => exact .inl rfl
  | finish => exact .inl rfl
  | advance g own hseg hk hfc hown =>
    rw [substitute_enterSlot_eq]
    cases hfiller : own.filler with
    | false => exact .inl rfl
    | true =>
      cases hq : s.q with
      | nil => exact .inl (by simp [hq])
      | cons f rest => exact .inr ⟨f, g, own, by simp [hq], by simp [hq], hseg, hk, rfl, hown, hfiller⟩

/-- Settles O52: the effects that write the queue are an INJECT, a frame advance and a RESET. -/
theorem queueIsFirstInFirstOut : Obligations.QueueIsFirstInFirstOut := by
  unfold Obligations.QueueIsFirstInFirstOut
  intro s t h
  cases stepEffect_of_step h with
  | micro r ins _ hclear hpull hmicro =>
    have hat : s.atPull = s.atCursor r.cursor := by rw [State.atPull, hpull]
    obtain hsame | ⟨f, g, own, hq, hinj, hseg, hrest⟩ := queue_of_microStep hmicro
    · exact .inl hsame
    · exact .inr (.inr (.inl ⟨hclear, f, g, own, hq, hinj, hat ▸ hseg, hrest⟩))
  | pull p c rest n _ htakes hd hclear _ _ hmicro =>
    have hat : s.atPull = s := by rw [State.atPull, pull_none_of_takes htakes hd (by simp) (by simp)]
    obtain hsame | ⟨f, g, own, hq, hinj, hseg, hrest⟩ := queue_of_microStep hmicro
    · exact .inl hsame
    · exact .inr (.inr (.inl ⟨hclear, f, g, own, hq, hinj, hat.symm ▸ hseg, hrest⟩))
  | inject p c rest f htakes hd hclear _ hf => exact .inr (.inl ⟨hclear, f, p, c, rest, hf, rfl, htakes, hd⟩)
  | reset p c rest htakes hd => exact .inr (.inr (.inr ⟨rfl, p, c, rest, htakes, hd⟩))
  | _ => exact .inl rfl

/-- Only a filler slot has an injected Frame over it (R30). -/
theorem State.Inv.inj_none {s : State} (h : s.Inv) (hconf : s.configured = true) (hfiller : ∀ f ∈ s.sf, f.filler = false) : s.inj = none := by
  by_contra hinj
  obtain ⟨f, hf, hfill⟩ := (h.cursor hconf).injected_over_filler hinj
  rw [hfiller f (List.mem_of_getElem? hf)] at hfill
  contradiction

/-- A frame advance into a slot that is no filler leaves the queue and injects nothing (R87). -/
theorem pullMicroStep_without_filler {r : PullRun} {s t : State} (hinj : s.inj = none) (hfiller : ∀ f ∈ s.sf, f.filler = false)
    (h : pullMicroStep r s = .next t) : t.inj = none ∧ t.q = s.q := by
  cases microEffect_of_next h with
  | goOn => exact ⟨hinj, rfl⟩
  | finish => exact ⟨hinj, rfl⟩
  | advance g f hseg hk hfc hf =>
    rw [substitute_enterSlot_eq, hfiller f (List.mem_of_getElem? hf)]
    exact ⟨rfl, rfl⟩

/-- Settles O53: without a filler Frame a frame advance takes nothing out of the queue, and an INJECT only adds to it. -/
theorem noFillerMeansNoInjectedFrame : Obligations.NoFillerMeansNoInjectedFrame := by
  unfold Obligations.NoFillerMeansNoInjectedFrame
  intro s t hs hconf hfiller h
  have hinj := hs.inj_none hconf hfiller
  have hmicroStep {r : PullRun} {u : State} (hu : u.inj = s.inj ∧ u.sf = s.sf ∧ u.q = s.q)
      (hmicro : pullMicroStep r u = .next t) : t.inj = none ∧ s.q <+: t.q := by
    obtain ⟨huinj, husf, huq⟩ := hu
    obtain ⟨hnone, hq⟩ := pullMicroStep_without_filler (huinj.trans hinj) (husf.symm ▸ hfiller) hmicro
    exact ⟨hnone, (hq.trans huq) ▸ List.prefix_refl _⟩
  cases stepEffect_of_step h with
  | micro r ins _ _ _ hmicro => exact .inl (hmicroStep (u := s.withInputs ins) ⟨rfl, rfl, rfl⟩ hmicro)
  | pull p c rest n _ _ _ _ _ _ hmicro => exact .inl (hmicroStep (u := s.accept p rest) ⟨rfl, rfl, rfl⟩ hmicro)
  | inject p c rest f => exact .inl ⟨hinj, List.prefix_append ..⟩
  | configure _ _ _ _ _ _ _ _ hunconf => rw [hconf] at hunconf; contradiction
  | reset p c rest htakes hd => exact .inr ⟨p, c, rest, htakes, hd⟩
  | _ => exact .inl ⟨hinj, List.prefix_refl _⟩

/-! ### The responses (R64, R69) -/

/-- A sample that is not "unused" is one of the line's (R64). -/
theorem Sample.minus_or_plus {v : Sample} (h : v ≠ .unused) : v = .minus ∨ v = .plus := by
  cases v with
  | minus => exact .inl rfl
  | plus => exact .inr rfl
  | unused => exact absurd rfl h

/-- The response that ends a PULL by a micro-step: OK, with its count as data, and samples of the line (R64, R69, R84). -/
theorem reply_of_microStep {r : PullRun} {s t : State} (hs : s.Inv) (hconf : s.configured = true) (hr : PullOk s r)
    (h : pullMicroStep r s = .next t) :
    t.replies = s.replies ∨ ∃ rep : Reply, t.replies = s.replies ++ [rep] ∧ (∀ v ∈ rep.samples, v = .minus ∨ v = .plus) ∧
      rep.code = .ok ∧ rep.data.toNat = rep.samples.length ∧ rep.port = r.port := by
  obtain ⟨⟨hroom, hmax, hunused⟩, -⟩ := hr
  have hline {out : List Sample} (hout : Sample.unused ∉ out) : ∀ v ∈ out, v = .minus ∨ v = .plus := fun v hv =>
    Sample.minus_or_plus fun heq => hout (heq ▸ hv)
  have hdata {out : List Sample} (hlen : out.length ≤ r.count) : (BitVec.ofNat 32 out.length).toNat = out.length :=
    Nat.mod_eq_of_lt (by omega)
  cases microEffect_of_next h with
  | goOn => exact .inl rfl
  | advance => 
    exact .inr ⟨{ port := r.port, code := .ok, data := BitVec.ofNat 32 r.out.length, samples := r.out }, by simp,
      hline hunused, rfl, hdata hroom.le, rfl⟩
  | finish g v hseg hk hv hfull =>
    obtain ⟨f, hf, hg⟩ := curSeg_eq_some_iff.mp hseg
    have hne := sampleFrom_ne_unused (segment_legal (hs.curFrame_legal hconf hf) hg) hv
    refine .inr ⟨_, State.finishPull_replies .., hline ?_, rfl, hdata ?_, rfl⟩
    · simp [PullRun.emit, hunused, hne.symm]
    · rw [emit_out_length]
      exact hroom

/-- What R64 and R69 say of a response `rep` that the step from `s` to `t` gives: its samples are of the line, and a response with
samples is that of the PULL whose micro-step or command the step is. -/
def LawfulReply (s t : State) (rep : Reply) : Prop :=
  (∀ v ∈ rep.samples, v = .minus ∨ v = .plus) ∧
    (rep.samples ≠ [] → rep.code = .ok ∧ rep.data.toNat = rep.samples.length ∧
      ((∃ r, s.pull = some r ∧ rep.port = r.port ∧ step s = pullMicroStep r { s with inputs := t.inputs }) ∨
        ∃ p c rest n, rep.port = p ∧ TakesCommand s p c rest ∧ decode c.word c.payload = .ok (.pull n)))

/-- A response without samples is lawful. -/
theorem lawfulReply_of_empty {s t : State} {rep : Reply} (h : rep.samples = []) : LawfulReply s t rep :=
  ⟨by simp [h], fun hne => absurd h hne⟩

/-- Settles O54: a micro-step answers as `reply_of_microStep` says, and every other response holds no sample. -/
theorem responsesCarryOnlyLineSamples : Obligations.ResponsesCarryOnlyLineSamples := by
  unfold Obligations.ResponsesCarryOnlyLineSamples
  intro s t hs h
  have hnothing (hsame : t.replies = s.replies) :
      ∃ new, t.replies = s.replies ++ new ∧ new.length ≤ 1 ∧ ∀ rep ∈ new, LawfulReply s t rep :=
    ⟨[], by rw [hsame, List.append_nil], Nat.zero_le _, fun _ hrep => absurd hrep List.not_mem_nil⟩
  have hone {rep : Reply} (happend : t.replies = s.replies ++ [rep]) (hrep : LawfulReply s t rep) :
      ∃ new, t.replies = s.replies ++ new ∧ new.length ≤ 1 ∧ ∀ rep ∈ new, LawfulReply s t rep :=
    ⟨[rep], happend, le_rfl, fun _ hmem => List.mem_singleton.mp hmem ▸ hrep⟩
  cases stepEffect_of_step h with
  | hold ins => exact hnothing rfl
  | ignorePull => exact hone rfl (lawfulReply_of_empty rfl)
  | answer => exact hone rfl (lawfulReply_of_empty rfl)
  | raise => exact hone rfl (lawfulReply_of_empty rfl)
  | reset => exact hone rfl (lawfulReply_of_empty rfl)
  | configure => exact hone rfl (lawfulReply_of_empty rfl)
  | inject => exact hone rfl (lawfulReply_of_empty rfl)
  | setStatus => exact hone rfl (lawfulReply_of_empty rfl)
  | pullZero => exact hone rfl (lawfulReply_of_empty rfl)
  | micro r ins _ _ hpull hmicro =>
    obtain hsame | ⟨rep, happend, hline, hcode, hdata, hport⟩ := reply_of_microStep (hs.withInputs ins)
      (hs.configured_of_pull hpull) ((hs.withInputs ins).pullOk hpull) hmicro
    · exact hnothing hsame
    · exact hone happend ⟨hline, fun _ => ⟨hcode, hdata, .inl ⟨r, hpull, hport, step_eq_pullMicroStep h hmicro⟩⟩⟩
  | pull p c rest n _ htakes hd _ hconf hn hmicro =>
    obtain hsame | ⟨rep, happend, hline, hcode, hdata, hport⟩ := reply_of_microStep (hs.accept p rest) hconf
      ((hs.accept p rest).pullOk_start hconf p hn (count_le_of_decode hd)) hmicro
    · exact hnothing hsame
    · exact hone happend ⟨hline, fun _ => ⟨hcode, hdata, .inr ⟨p, c, rest, n, hport, htakes, hd⟩⟩⟩

/-! ### The end of a PULL (R89) -/

/-- The slot number a frame advance writes does not wrap (R10, R87). -/
theorem State.Inv.next_slot_toNat {s : State} (h : s.Inv) (hconf : s.configured = true) :
    (BitVec.ofNat 16 ((s.slot.toNat + 1) % s.fc.toNat)).toNat = (s.slot.toNat + 1) % s.fc.toNat := by
  obtain ⟨-, hlt, -⟩ := h.exists_next_frame hconf
  exact Nat.mod_eq_of_lt (hlt.trans s.fc.isLt)

/-- Settles O36: outside the fault state a PULL ends with a micro-step, whose EmitStep fills its count and whose FrameAdvance
starts at an EOB. -/
theorem shortCountMeansBurstBoundary : Obligations.ShortCountMeansBurstBoundary := by
  unfold Obligations.ShortCountMeansBurstBoundary
  intro s t r hs hclear h hpull hnone
  have hconf := hs.configured_of_pull hpull
  obtain ⟨hroom, -, -⟩ := hs.pull_room r hpull
  have hkept (hsame : t.pull = s.pull) : False := by
    rw [hnone, hpull] at hsame
    contradiction
  have hbetween {p : Port} {c : Command} {rest : List Input} {i : Instr} (htakes : TakesCommand s p c rest)
      (hd : decode c.word c.payload = .ok i) (hinject : ∀ record, i ≠ .inject record) (hstatus : ∀ bit, i ≠ .setStatus bit) :
      False := by
    have hidle := pull_none_of_takes htakes hd hinject hstatus
    rw [hpull] at hidle
    contradiction
  cases stepEffect_of_step h with
  | hold => exact (hkept rfl).elim
  | answer => exact (hkept rfl).elim
  | raise => exact (hkept rfl).elim
  | inject => exact (hkept rfl).elim
  | setStatus => exact (hkept rfl).elim
  | ignorePull _ _ hfaulted => rw [hclear] at hfaulted; contradiction
  | reset _ _ _ htakes hd => exact (hbetween htakes hd (by simp) (by simp)).elim
  | configure _ _ _ _ _ htakes hd => exact (hbetween htakes hd (by simp) (by simp)).elim
  | pull _ _ _ _ _ htakes hd => exact (hbetween htakes hd (by simp) (by simp)).elim
  | pullZero _ _ _ htakes hd => exact (hbetween htakes hd (by simp) (by simp)).elim
  | micro r₀ ins _ _ hpull₀ hmicro =>
    obtain rfl := Option.some.inj (hpull.symm.trans hpull₀)
    cases microEffect_of_next hmicro with
    | goOn => cases hnone
    | finish g v hseg hk hv hfull =>
      refine ⟨_, newReplies_of_append rfl, ?_, fun hshort => ?_⟩
      · rw [emit_out_length]
        exact hroom
      · rw [emit_out_length] at hshort
        omega
    | advance g f hseg hk hfc hf =>
      rw [substitute_enterSlot_eq]
      exact ⟨r.out, newReplies_of_append rfl, hroom.le, fun _ => ⟨⟨g, hseg, hk⟩, rfl, rfl, hs.next_slot_toNat hconf⟩⟩

end Sys2Proof.Machine
end

section
/-! What is left of the current Frame (R91), and runs of a PULL: how many samples it takes, one after another, and how it ends
(R84, R88 to R90). -/

namespace Sys2Proof.Machine

/-! ### What is left of a Frame (R91) -/

section
variable {s : State} {f : Frame} {g : Segment}

/-- At offset 0 of a Segment all of it is left, with the cell's bit, and all Segments behind it. -/
theorem remaining_of_off_zero (hf : s.curFrame = some f) (hoff : s.off = 0) :
    s.remaining = (f.segs.drop s.seg.toNat).flatMap (Segment.stream s.build s.bi) := by
  simp only [State.remaining, hf, hoff]
  cases f.segs.drop s.seg.toNat <;> simp

/-- Within a Segment, the rest of it is left, and all Segments behind it. -/
theorem remaining_of_segment (hf : s.curFrame = some f) (hg : f.segs[s.seg.toNat]? = some g) :
    s.remaining = (g.stream s.build (if s.off = 0 then s.bi else s.latch)).drop s.off.toNat ++
      (f.segs.drop (s.seg.toNat + 1)).flatMap (Segment.stream s.build s.bi) := by
  obtain ⟨hi, rfl⟩ := List.getElem?_eq_some_iff.mp hg
  simp only [State.remaining, hf, List.drop_eq_getElem_cons hi]

/-- A legal Frame sends as many samples as its sample length (R23, R91). -/
theorem frame_stream_length {b : Build} {f : Frame} (hf : f.Legal b) (bit : Bool) : (f.stream b bit).length = f.len b := by
  obtain ⟨-, -, hlegal⟩ := hf
  rw [Frame.stream, List.length_flatMap, Frame.len]
  exact congrArg List.sum (List.map_congr_left fun g hg => stream_length (hlegal g hg) bit)

/-- At its start a Frame is left as a whole (R91). -/
theorem remaining_at_start (hf : s.curFrame = some f) (hseg : s.seg = 0) (hoff : s.off = 0) :
    s.remaining = f.stream s.build s.bi := by
  rw [remaining_of_off_zero hf hoff, hseg]
  rfl

/-- On an EOB nothing is left. -/
theorem remaining_of_eob {c : PullCursor} (hf : s.curFrame = some f) (hlegal : f.Legal s.build)
    (hseg : (s.atCursor c).curSeg = some g) (hk : g.kind = .eob) : (s.atCursor c).remaining = [] := by
  obtain ⟨f₀, hf₀, hg⟩ := curSeg_eq_some_iff.mp hseg
  obtain rfl : f = f₀ := Option.some.inj (hf.symm.trans hf₀)
  have hlast := (eob_iff_last hlegal hg).mp hk
  rw [remaining_of_segment (s := s.atCursor c) hf hg, stream_eob hk, hlast]
  simp

/-- The bit that a Segment carries from the cursor on makes no difference but to a STATUS Segment. -/
theorem stream_carriedBit (s : State) (c : PullCursor) (g : Segment) :
    g.stream s.build (if c.off = 0 then s.bi else c.latch) = g.stream s.build (s.carriedBit c g) := by
  cases hk : g.kind with
  | status => simp only [State.carriedBit, hk, true_and]
  | message => rw [stream_message hk, stream_message hk]
  | eob => rw [stream_eob hk, stream_eob hk]

/-- Behind one sample the rest of what was left is left. -/
theorem remaining_of_sample {c : PullCursor} {v : Sample} (hf : s.curFrame = some f) (hlegal : f.Legal s.build)
    (hseg : (s.atCursor c).curSeg = some g) (hoff : c.off.toNat < g.len s.build) (hv : s.sampleFrom c g = some v) :
    (s.atCursor c).remaining = v :: (s.atCursor (s.cursorAfter c g)).remaining := by
  obtain ⟨f₀, hf₀, hg⟩ := curSeg_eq_some_iff.mp hseg
  obtain rfl : f = f₀ := Option.some.inj (hf.symm.trans hf₀)
  have hg : f.segs[c.seg.toNat]? = some g := hg
  have hglegal := segment_legal hlegal hg
  have hlen : (g.stream s.build (s.carriedBit c g)).length = g.len s.build := stream_length hglegal _
  obtain ⟨hlt, hget⟩ := List.getElem?_eq_some_iff.mp hv
  have hhere : (s.atCursor c).remaining =
      (g.stream s.build (if c.off = 0 then s.bi else c.latch)).drop c.off.toNat ++
        (f.segs.drop (c.seg.toNat + 1)).flatMap (Segment.stream s.build s.bi) :=
    remaining_of_segment (s := s.atCursor c) hf hg
  rw [hhere, stream_carriedBit, List.drop_eq_getElem_cons hlt, hget, List.cons_append]
  congr 1
  by_cases hend : c.off.toNat + 1 = g.len s.build
  · have hoff' : (s.atCursor (s.cursorAfter c g)).off = 0 := if_pos hend
    have hseg' : (s.atCursor (s.cursorAfter c g)).seg.toNat = c.seg.toNat + 1 := by
      simp only [State.atCursor_seg, State.cursorAfter, if_pos hend]
      exact seg_succ_toNat hlegal hg
    rw [remaining_of_off_zero (s := s.atCursor (s.cursorAfter c g)) hf hoff', hseg', hend, ← hlen, List.drop_length,
      List.nil_append]
    rfl
  · have hafter : s.cursorAfter c g = { seg := c.seg, off := c.off + 1, latch := s.carriedBit c g } := by
      rw [State.cursorAfter, if_neg hend, if_neg hend]
    have hsucc := off_succ_toNat hglegal hoff
    have hne : c.off + 1 ≠ 0 := fun hzero => by
      rw [hzero] at hsucc
      exact absurd hsucc.symm (Nat.succ_ne_zero _)
    have hnext : (s.atCursor (s.cursorAfter c g)).remaining =
        (g.stream s.build (if c.off + 1 = 0 then s.bi else s.carriedBit c g)).drop (c.off + 1).toNat ++
          (f.segs.drop (c.seg.toNat + 1)).flatMap (Segment.stream s.build s.bi) := by
      rw [hafter]
      exact remaining_of_segment (s := s.atCursor { seg := c.seg, off := c.off + 1, latch := s.carriedBit c g }) hf hg
    rw [hnext, if_neg hne, hsucc]

end

/-- Settles O34: `remaining_at_start`, and the length of a legal Frame's stream. -/
theorem wholeFrameIsTheConcatenationOfItsSegments : Obligations.WholeFrameIsTheConcatenationOfItsSegments := by
  unfold Obligations.WholeFrameIsTheConcatenationOfItsSegments
  intro s f hf hlegal hseg hoff
  rw [remaining_at_start hf hseg hoff]
  constructor
  · refine congrArg (fun stream => f.segs.flatMap stream) (funext fun g => ?_)
    unfold Segment.stream
    cases g.kind <;> rfl
  · rw [frame_stream_length hlegal, frame_len_eq]

/-! ### Runs of the block -/

/-- A run goes on from what its first step leaves. -/
theorem core_run_succ {s t : State} (h : step s = .next t) (k : Nat) : core.run (k + 1) s = core.run k t :=
  run_succ_of_next core h k

/-- A run of one step is that step. -/
theorem core_run_one (s : State) : core.run 1 s = step s :=
  run_one core s

/-- A run of `j` steps that goes on, and then `k` more. -/
theorem core_run_add {j : Nat} {s t : State} (h : core.run j s = .next t) (k : Nat) : core.run (j + k) s = core.run k t :=
  run_add_of_next core h k

/-- Two states whose next step is the same have the same runs. -/
theorem core_run_congr {s t : State} (h : step s = step t) (k : Nat) : core.run (k + 1) s = core.run (k + 1) t := by
  have hstep : core.step s = core.step t := h
  simp only [Host.Core.run, hstep]

/-! ### Samples in a row -/

/-- What a lawful cursor stands on: an EOB, with nothing left of the Frame, or a sample, the first of what is left, behind which
the cursor is lawful again. -/
theorem State.Inv.eob_or_sample {s : State} (h : s.Inv) (hconf : s.configured = true) {c : PullCursor}
    (hcursor : (s.atCursor c).CursorOk) :
    (∃ g, (s.atCursor c).curSeg = some g ∧ g.kind = .eob ∧ (s.atCursor c).remaining = []) ∨
    ∃ g v, (s.atCursor c).curSeg = some g ∧ g.kind ≠ .eob ∧ s.sampleFrom c g = some v ∧
      (s.atCursor c).remaining = v :: (s.atCursor (s.cursorAfter c g)).remaining ∧
      (s.atCursor (s.cursorAfter c g)).CursorOk := by
  have hwhole := hcursor
  obtain ⟨-, ⟨g, hseg, -, hoff⟩, -⟩ := hcursor
  obtain ⟨f, hf, hg⟩ := curSeg_eq_some_iff.mp hseg
  have hlegal : f.Legal s.build := h.curFrame_legal hconf hf
  by_cases hk : g.kind = .eob
  · exact .inl ⟨g, hseg, hk, remaining_of_eob hf hlegal hseg hk⟩
  · obtain ⟨v, hv⟩ := exists_sampleFrom (segment_legal hlegal hg) (hoff hk)
    exact .inr ⟨g, v, hseg, hk, hv, remaining_of_sample hf hlegal hseg (hoff hk) hv, cursorOk_after hwhole hf hlegal hseg hk⟩

/-- The PULL `r` with the samples `vs` more, and its cursor at `c`. -/
def PullRun.extend (r : PullRun) (vs : List Sample) (c : PullCursor) : PullRun :=
  { r with out := r.out ++ vs, cursor := c }

theorem extend_nil (r : PullRun) : r.extend [] r.cursor = r := by
  rw [PullRun.extend, List.append_nil]

theorem emit_eq_extend (r : PullRun) (v : Sample) (c : PullCursor) : r.emit v c = r.extend [v] c := rfl

theorem extend_extend (r : PullRun) (vs ws : List Sample) (c d : PullCursor) :
    (r.extend vs c).extend ws d = r.extend (vs ++ ws) d := by
  rw [PullRun.extend, PullRun.extend, PullRun.extend, List.append_assoc]

/-- The state `s` with the PULL `r` in progress, and `ins` to come. -/
def State.inPull (s : State) (r : PullRun) (ins : List Input) : State :=
  { s with pull := some r, inputs := ins }

/-- The interleaving gives the PULL `r` one turn after another: with `k` turns used up fewer, `feed k` is to come. Each turn is
an entry of its own, or is due because nothing stands before it. -/
def Feeds (r : PullRun) (feed : Nat → List Input) : Prop :=
  ∀ k, feed (k + 1) = .pullTurn :: feed k ∨ (feed (k + 1) = feed k ∧ WaitsFor r (feed k))

section
variable {s : State} {r : PullRun} {feed : Nat → List Input}

/-- An interleaving that never stands before the PULL feeds it as it is. -/
theorem feeds_of_waitsFor {ins : List Input} (h : WaitsFor r ins) : Feeds r fun _ => ins :=
  fun _ => .inr ⟨rfl, h⟩

/-- So does one turn for each micro-step. -/
theorem feeds_replicate (r : PullRun) (rest : List Input) : Feeds r fun k => List.replicate k .pullTurn ++ rest :=
  fun _ => .inl rfl

/-- Only the port of a PULL decides what waits for it. -/
theorem Feeds.extend (h : Feeds r feed) (vs : List Sample) (c : PullCursor) : Feeds (r.extend vs c) feed :=
  h

/-- Outside the fault state each turn that the PULL is fed is a micro-step. -/
theorem step_of_feeds (hfeed : Feeds r feed) (hclear : s.faulted = false) (k : Nat) :
    step (s.inPull r (feed (k + 1))) = pullMicroStep r (s.inPull r (feed k)) := by
  obtain hturn | ⟨hsame, hwaits⟩ := hfeed k
  · rw [hturn, step_of_pullTurn (s := s.inPull r (.pullTurn :: feed k)) rfl rfl]
    exact resumePull_of_clear hclear
  · rw [hsame, step_of_waitsFor (s := s.inPull r (feed k)) rfl hwaits]
    exact resumePull_of_clear hclear

/-- A PULL that is fed takes `n` samples in `n` steps, while it has more room than that and as many are left (R84, R90). -/
theorem State.Inv.run_samples (h : s.Inv) (hconf : s.configured = true) (hclear : s.faulted = false) (hfeed : Feeds r feed)
    (hcursor : (s.atCursor r.cursor).CursorOk) (n : Nat) (hroom : r.out.length + n < r.count)
    (hleft : n ≤ (s.atCursor r.cursor).remaining.length) :
    ∃ c, core.run n (s.inPull r (feed n)) = .next (s.inPull (r.extend ((s.atCursor r.cursor).remaining.take n) c) (feed 0)) ∧
      (s.atCursor c).remaining = (s.atCursor r.cursor).remaining.drop n ∧ (s.atCursor c).CursorOk := by
  induction n generalizing r with
  | zero => exact ⟨r.cursor, by rw [List.take_zero, extend_nil]; rfl, rfl, hcursor⟩
  | succ n ih =>
    obtain ⟨g, -, -, hnil⟩ | ⟨g, v, hseg, hk, hv, hcons, hafter⟩ := h.eob_or_sample hconf hcursor
    · rw [hnil] at hleft
      exact absurd hleft (Nat.not_succ_le_zero n)
    · have hstep : step (s.inPull r (feed (n + 1))) = .next (s.inPull (r.emit v (s.cursorAfter r.cursor g)) (feed n)) := by
        rw [step_of_feeds hfeed hclear, pullMicroStep_of_sample (s := s.inPull r (feed n)) hseg hk hv, continuePull_emit,
          if_pos (by omega)]
        rfl
      rw [hcons] at hleft ⊢
      obtain ⟨c, hrun, hrest, hok⟩ := ih (r := r.emit v (s.cursorAfter r.cursor g)) (hfeed.extend [v] _) hafter
        (by rw [emit_out_length, emit_count]; omega) (Nat.le_of_succ_le_succ hleft)
      refine ⟨c, ?_, hrest, hok⟩
      rw [core_run_succ hstep n, hrun, emit_eq_extend, extend_extend]
      rfl

/-- A PULL that nothing stands before, with no more room than samples left, ends with the first of them (R84, R88, R90). -/
theorem State.Inv.run_pull_full (h : s.Inv) (hconf : s.configured = true) (hclear : s.faulted = false)
    (hwaits : WaitsFor r s.inputs) (hcursor : (s.atCursor r.cursor).CursorOk) {n : Nat}
    (hcount : r.count = r.out.length + (n + 1)) (hleft : n + 1 ≤ (s.atCursor r.cursor).remaining.length) :
    ∃ c, core.run (n + 1) (s.inPull r s.inputs) =
        .next ((s.atCursor c).finishPull (r.extend ((s.atCursor r.cursor).remaining.take (n + 1)) c)) ∧
      (s.atCursor c).remaining = (s.atCursor r.cursor).remaining.drop (n + 1) := by
  obtain ⟨c, hrun, hrest, hok⟩ := h.run_samples hconf hclear (feeds_of_waitsFor hwaits) hcursor n (by omega) (by omega)
  obtain ⟨g, -, -, hnil⟩ | ⟨g, v, hseg, hk, hv, hcons, -⟩ := h.eob_or_sample hconf hok
  · have hlen := congrArg List.length (hrest.symm.trans hnil)
    rw [List.length_drop, List.length_nil] at hlen
    omega
  · have hfull : ¬(r.extend ((s.atCursor r.cursor).remaining.take n) c).out.length + 1 <
        (r.extend ((s.atCursor r.cursor).remaining.take n) c).count := by
      simp only [PullRun.extend, List.length_append, List.length_take]
      omega
    have hdrop : (s.atCursor r.cursor).remaining.drop n = v :: (s.atCursor (s.cursorAfter c g)).remaining :=
      hrest.symm.trans hcons
    have htake : (s.atCursor r.cursor).remaining.take n ++ [v] = (s.atCursor r.cursor).remaining.take (n + 1) := by
      rw [List.take_add, hdrop]
      rfl
    refine ⟨s.cursorAfter c g, ?_, ?_⟩
    · rw [core_run_add hrun 1, core_run_one, step_of_feeds ((feeds_of_waitsFor hwaits).extend _ c) hclear 0,
        pullMicroStep_of_sample (s := s.inPull _ s.inputs) (r := r.extend _ c) hseg hk hv, continuePull_emit,
        if_neg hfull, emit_eq_extend, extend_extend]
      change _ = Host.Outcome.next ((s.atCursor (s.cursorAfter c g)).finishPull (r.extend _ (s.cursorAfter c g)))
      rw [← htake]
      rfl
    · rw [← List.drop_drop, hdrop]
      rfl

/-- A PULL that nothing stands before, with more room than samples left, ends with all of them and a frame advance (R87 to
R90). -/
theorem State.Inv.run_pull_short (h : s.Inv) (hconf : s.configured = true) (hclear : s.faulted = false)
    (hwaits : WaitsFor r s.inputs) (hcursor : (s.atCursor r.cursor).CursorOk)
    (hroom : r.out.length + (s.atCursor r.cursor).remaining.length < r.count) :
    ∃ c f, s.sf[(s.slot.toNat + 1) % s.fc.toNat]? = some f ∧
      core.run ((s.atCursor r.cursor).remaining.length + 1) (s.inPull r s.inputs) =
        .next ((((s.atCursor c).enterSlot ((s.slot.toNat + 1) % s.fc.toNat)).substitute f).finishPull
          (r.extend (s.atCursor r.cursor).remaining c)) := by
  obtain ⟨c, hrun, hrest, hok⟩ := h.run_samples hconf hclear (feeds_of_waitsFor hwaits) hcursor _ hroom le_rfl
  rw [List.drop_length] at hrest
  rw [List.take_length] at hrun
  obtain ⟨g, hseg, hk, -⟩ | ⟨g, v, -, -, -, hcons, -⟩ := h.eob_or_sample hconf hok
  · obtain ⟨hfc, -, f, hf⟩ := h.exists_next_frame hconf
    refine ⟨c, f, hf, ?_⟩
    rw [core_run_add hrun 1, core_run_one, step_of_feeds ((feeds_of_waitsFor hwaits).extend _ c) hclear 0,
      pullMicroStep_of_eob (s := s.inPull _ s.inputs) (r := r.extend _ c) hseg hk hfc hf, substitute_enterSlot_eq,
      substitute_enterSlot_eq]
    rfl
  · rw [hrest] at hcons
    contradiction

/-- Whether a PULL is in progress makes no difference to a micro-step that goes on. -/
theorem pullMicroStep_inPull {t : State} (h : pullMicroStep r s = .next t) :
    pullMicroStep r (s.inPull r s.inputs) = .next t := by
  cases microEffect_of_next h with
  | advance g f hseg hk hfc hf =>
    rw [pullMicroStep_of_eob (s := s.inPull r s.inputs) hseg hk hfc hf, substitute_enterSlot_eq, substitute_enterSlot_eq]
    rfl
  | goOn g v hseg hk hv hroom =>
    rw [pullMicroStep_of_sample (s := s.inPull r s.inputs) hseg hk hv, continuePull_emit, if_pos hroom]
    rfl
  | finish g v hseg hk hv hfull =>
    rw [pullMicroStep_of_sample (s := s.inPull r s.inputs) hseg hk hv, continuePull_emit, if_neg (Nat.not_lt.mpr hfull)]
    rfl

/-- The PULL of `n` samples that starts at the cursor of `s` (R84). -/
def State.newPull (s : State) (n : Nat) : PullRun :=
  { port := s.port, count := n, out := [], cursor := s.pullCursor }

/-- The start of a PULL is the next turn of the PULL it starts, wherever that one is fed. -/
theorem State.Inv.exec_pull_eq_step (h : s.Inv) (hconf : s.configured = true) (hclear : s.faulted = false) {n : Nat} (hn : 1 ≤ n)
    (hfeed : Feeds (s.newPull n) feed) {k : Nat} (hins : s.inputs = feed k) :
    exec (.pull n) s = step (s.inPull (s.newPull n) (feed (k + 1))) := by
  obtain ⟨t, ht⟩ := h.exists_microStep (r := s.newPull n) hconf (h.cursor hconf)
  rw [exec_pull_of_configured hclear hconf hn, step_of_feeds hfeed hclear, ← hins, pullMicroStep_inPull ht]
  exact ht

end

/-- Settles O33: a PULL of at least one sample runs from its first micro-step on as `run_pull_full` or `run_pull_short` says. -/
theorem pullReturnsWhatIsLeftOfTheFrame : Obligations.PullReturnsWhatIsLeftOfTheFrame := by
  unfold Obligations.PullReturnsWhatIsLeftOfTheFrame
  intro s n hs hclear hconf hpull hins hmax
  obtain rfl | hn := Nat.eq_zero_or_pos n
  · refine ⟨_, 0, _, exec_pull_zero hclear hconf, le_rfl, rfl, rfl, rfl, rfl, ?_, fun _ => ⟨rfl, rfl, rfl, rfl⟩,
      fun hshort => absurd hshort (Nat.not_lt_zero _)⟩
    rw [Nat.zero_min]
    rfl
  obtain ⟨m, rfl⟩ := Nat.exists_eq_succ_of_ne_zero (Nat.ne_of_gt hn)
  have hwaits : WaitsFor (s.newPull (m + 1)) s.inputs := .inl hins
  have hfirst := hs.exec_pull_eq_step hconf hclear hn (feeds_of_waitsFor hwaits) (k := 0) rfl
  obtain ⟨t₀, ht₀⟩ := hs.exists_exec (.pull (m + 1))
  have hlater (k : Nat) : core.run k t₀ = core.run (k + 1) (s.inPull (s.newPull (m + 1)) s.inputs) :=
    (core_run_succ (hfirst.symm.trans ht₀) k).symm
  obtain hfull | hshort := le_or_gt (m + 1) s.remaining.length
  · obtain ⟨c, hrun, hrest⟩ := hs.run_pull_full hconf hclear hwaits (hs.cursor hconf) (n := m) (by simp [State.newPull]) hfull
    refine ⟨t₀, m, _, ht₀, Nat.le_succ m, (hlater m).trans hrun, rfl, rfl, rfl, ?_, fun _ => ⟨rfl, rfl, rfl, hrest⟩,
      fun hshort => absurd hfull (Nat.not_le.mpr hshort)⟩
    rw [State.finishPull_replies]
    simp only [PullRun.extend, State.newPull, List.nil_append, List.length_take]
    rfl
  · obtain ⟨c, f, hf, hrun⟩ := hs.run_pull_short hconf hclear hwaits (hs.cursor hconf) (by simpa [State.newPull] using hshort)
    rw [substitute_enterSlot_eq] at hrun
    refine ⟨t₀, s.remaining.length, _, ht₀, hshort.le, (hlater _).trans hrun, rfl, rfl, rfl, ?_,
      fun hfull => absurd hfull (Nat.not_le.mpr hshort), fun _ => ⟨rfl, rfl, hs.next_slot_toNat hconf, f, hf, rfl, rfl⟩⟩
    rw [State.finishPull_replies]
    simp only [PullRun.extend, State.newPull, List.nil_append, Nat.min_eq_right hshort.le, List.take_of_length_le hshort.le]
    rfl

end Sys2Proof.Machine
end

section
/-! Commands that fall inside a PULL (R28, R49, R50): an INJECT or a SET_STATUS before and behind a sample, an INJECT that faults
there, and the SET_STATUS commands inside one STATUS Segment. -/

namespace Sys2Proof.Machine

/-! ### The steps of a block with a PULL in progress -/

/-- An INJECT falls inside a PULL on another port (R49). -/
theorem fallsInsidePull_inject (record : List Byte) : fallsInsidePull (encode (.inject record)) = true :=
  fallsInsidePull_iff.mpr (.inl ⟨record, decode_encode rfl⟩)

/-- A SET_STATUS falls inside a PULL on another port (R49). -/
theorem fallsInsidePull_setStatus (bit : Bool) : fallsInsidePull (encode (.setStatus bit)) = true :=
  fallsInsidePull_iff.mpr (.inr ⟨bit, decode_encode rfl⟩)

/-- A run stops where its first step does. -/
theorem core_run_fault {s : State} {e : Fault} (h : step s = .fault e) (k : Nat) : core.run (k + 1) s = .fault e :=
  run_succ_of_fault core h k

section
variable {s : State} {r : PullRun} {g : Segment} {p : Port} {i : Instr} {rest : List Input}

/-- The step that takes a command inside a PULL is the command, on the state with the command taken (R49, R63). -/
theorem step_inPull_of_command (hwf : i.wellFormed = true) (hfalls : fallsInsidePull (encode i) = true) (hport : p ≠ r.port) :
    step (s.inPull r (.command p (encode i) :: rest)) = exec i ((s.inPull r rest).accept p rest) :=
  step_of_decode_ok (s := s.inPull r (.command p (encode i) :: rest)) ⟨rfl, .inr ⟨r, rfl, hport, hfalls⟩⟩ (decode_encode hwf)

/-- A turn given to a PULL, outside the fault state, is its next micro-step. -/
theorem step_inPull_of_turn (hclear : s.faulted = false) :
    step (s.inPull r (.pullTurn :: rest)) = pullMicroStep r (s.inPull r rest) := by
  rw [step_of_pullTurn (s := s.inPull r (.pullTurn :: rest)) rfl rfl]
  exact resumePull_of_clear hclear

/-- A turn at which the PULL emits the sample `v` and has room left (R84, R85). -/
theorem step_inPull_of_sample {v : Sample} (hclear : s.faulted = false) (hroom : r.out.length + 1 < r.count)
    (hseg : (s.atCursor r.cursor).curSeg = some g) (hk : g.kind ≠ .eob) (hv : s.sampleFrom r.cursor g = some v) :
    step (s.inPull r (.pullTurn :: rest)) = .next (s.inPull (r.emit v (s.cursorAfter r.cursor g)) rest) := by
  rw [step_inPull_of_turn hclear, pullMicroStep_of_sample (s := s.inPull r rest) hseg hk hv, continuePull_emit, if_pos hroom]
  rfl

/-- A turn at which the current Segment has no sample stops (R40). -/
theorem step_inPull_of_no_sample (hclear : s.faulted = false) (hseg : (s.atCursor r.cursor).curSeg = some g)
    (hk : g.kind ≠ .eob) (hv : s.sampleFrom r.cursor g = none) :
    step (s.inPull r (.pullTurn :: rest)) = .fault .noSample := by
  rw [step_inPull_of_turn hclear, pullMicroStep_of_no_sample (s := s.inPull r rest) hseg hk hv]

/-- A command commutes with the emission of a sample inside a PULL where it makes `s` into `u`, whatever the PULL and the
interleaving, and the sample and the cursor's move are the same in `s` and in `u`. -/
theorem run_two_of_commuting {u : State} (hwf : i.wellFormed = true) (hfalls : fallsInsidePull (encode i) = true)
    (hexec : ∀ r' ins, exec i ((s.inPull r' ins).accept p ins) = .next (u.inPull r' ins)) (hclear : s.faulted = false)
    (huclear : u.faulted = false) (hport : p ≠ r.port) (hroom : r.out.length + 1 < r.count)
    (hseg : (s.atCursor r.cursor).curSeg = some g) (huseg : (u.atCursor r.cursor).curSeg = some g) (hk : g.kind ≠ .eob)
    (hsample : u.sampleFrom r.cursor g = s.sampleFrom r.cursor g) (hcursor : u.cursorAfter r.cursor g = s.cursorAfter r.cursor g) :
    core.run 2 (s.inPull r (.command p (encode i) :: .pullTurn :: rest)) =
      core.run 2 (s.inPull r (.pullTurn :: .command p (encode i) :: rest)) := by
  have hcommand {r' : PullRun} {ins : List Input} (hport' : p ≠ r'.port) :
      step (s.inPull r' (.command p (encode i) :: ins)) = .next (u.inPull r' ins) := by
    rw [step_inPull_of_command hwf hfalls hport', hexec]
  cases hv : s.sampleFrom r.cursor g with
  | none =>
    calc core.run 2 (s.inPull r (.command p (encode i) :: .pullTurn :: rest))
        = core.run 1 (u.inPull r (.pullTurn :: rest)) := core_run_succ (hcommand hport) 1
      _ = .fault .noSample := core_run_fault (step_inPull_of_no_sample huclear huseg hk (hsample.trans hv)) 0
      _ = core.run 2 (s.inPull r (.pullTurn :: .command p (encode i) :: rest)) :=
        (core_run_fault (step_inPull_of_no_sample hclear hseg hk hv) 1).symm
  | some v =>
    have hbehind := step_inPull_of_sample (rest := rest) huclear hroom huseg hk (hsample.trans hv)
    have hbefore := step_inPull_of_sample (rest := .command p (encode i) :: rest) hclear hroom hseg hk hv
    calc core.run 2 (s.inPull r (.command p (encode i) :: .pullTurn :: rest))
        = core.run 1 (u.inPull r (.pullTurn :: rest)) := core_run_succ (hcommand hport) 1
      _ = .next (u.inPull (r.emit v (u.cursorAfter r.cursor g)) rest) := (core_run_one _).trans hbehind
      _ = .next (u.inPull (r.emit v (s.cursorAfter r.cursor g)) rest) := by rw [hcursor]
      _ = core.run 1 (s.inPull (r.emit v (s.cursorAfter r.cursor g)) (.command p (encode i) :: rest)) :=
        ((core_run_one _).trans (hcommand (r' := r.emit v _) hport)).symm
      _ = core.run 2 (s.inPull r (.pullTurn :: .command p (encode i) :: rest)) := (core_run_succ hbefore 1).symm

/-- A state with the PULL `r` in progress, and `ins` to come. -/
theorem withInputs_eq_inPull (hpull : s.pull = some r) (ins : List Input) : ({ s with inputs := ins } : State) = s.inPull r ins := by
  rw [State.inPull, ← hpull]

end

/-! ### Commands that commute with a sample (R50) -/

/-- Settles O43: the two effects of an INJECT of an injectable Frame, FULL and the enqueue, commute with the sample. -/
theorem injectCommutesWithAnEmittedSample : Obligations.InjectCommutesWithAnEmittedSample := by
  unfold Obligations.InjectCommutesWithAnEmittedSample
  intro s r g f p rest hclear hconf hpull hport hroom hseg hk hf c
  have hexec (r' : PullRun) (ins : List Input) :
      exec (.inject f.record) ((s.inPull r' ins).accept p ins) =
        if s.queueFull then .next (((s.inPull r' ins).accept p ins).respond .full 0)
        else .next ((((s.inPull r' ins).accept p ins).enqueue f).respond .ok 0) :=
    exec_inject_of_ok (s := (s.inPull r' ins).accept p ins) hclear hconf (parseInject_ok_iff.mpr ⟨rfl, hf⟩)
  have hcommute {u : State} (hu : ∀ r' ins, exec (.inject f.record) ((s.inPull r' ins).accept p ins) = .next (u.inPull r' ins))
      (huclear : u.faulted = false) :=
    run_two_of_commuting (rest := rest) (g := g) rfl (fallsInsidePull_inject _) hu hclear huclear hport hroom hseg
  rw [withInputs_eq_inPull hpull, withInputs_eq_inPull hpull]
  cases hfull : s.queueFull with
  | true =>
    refine hcommute (u := (s.accept p []).respond .full 0) (fun r' ins => ?_) hclear hseg hk rfl rfl
    rw [hexec, hfull]
    rfl
  | false =>
    refine hcommute (u := ((s.accept p []).enqueue f).respond .ok 0) (fun r' ins => ?_) hclear hseg hk rfl rfl
    rw [hexec, hfull]
    rfl

/-- Settles O45: a SET_STATUS writes the status cell, which a sample reads only at offset 0 of a STATUS Segment. -/
theorem setStatusCommutesInsideASegment : Obligations.SetStatusCommutesInsideASegment := by
  unfold Obligations.SetStatusCommutesInsideASegment
  intro s r g bit p rest hclear hpull hport hroom hseg hk hinside c
  have hbit (u : State) : u.carriedBit r.cursor g = r.cursor.latch := if_neg hinside
  rw [withInputs_eq_inPull hpull, withInputs_eq_inPull hpull]
  refine run_two_of_commuting (u := ((s.accept p []).writeStatusCell bit).respond .ok 0) rfl (fallsInsidePull_setStatus bit)
    (fun r' ins => ?exec) hclear hclear hport hroom hseg hseg hk ?sample ?cursor
  case exec =>
    rw [exec_setStatus_of_clear (s := (s.inPull r' ins).accept p ins) bit hclear]
    rfl
  case sample =>
    rw [State.sampleFrom, State.sampleFrom, hbit, hbit]
    rfl
  case cursor =>
    rw [State.cursorAfter, State.cursorAfter, hbit, hbit]
    rfl

/-! ### An INJECT that faults inside a PULL -/

/-- An INJECT that faults in a configured block faults alike in every block of the same build (R94). -/
theorem exec_inject_fault_of_same_build {s u : State} {record : List Byte} {cause : BitVec 8} (hclear : s.faulted = false)
    (hconf : s.configured = true) (h : exec (.inject record) s = .next (s.afterFault 0x4 cause)) (huclear : u.faulted = false)
    (huconf : u.configured = true) (hbuild : u.build = s.build) :
    exec (.inject record) u = .next (u.afterFault 0x4 cause) := by
  obtain ⟨c, hparse, rfl⟩ := parseInject_of_exec_fault hclear hconf h
  exact exec_inject_of_error huclear huconf (hbuild ▸ hparse)

/-- The run up to an INJECT behind `k + 1` samples of a PULL moves nothing but the PULL. -/
theorem State.Inv.run_to_command {s : State} (h : s.Inv) (hconf : s.configured = true) (hclear : s.faulted = false)
    (hpull : s.pull = none) {n k : Nat} (hmax : n ≤ 0xFFFFFF) (hroom : k + 1 < n) (hleft : k + 1 ≤ s.remaining.length)
    (rest : List Input) :
    ∃ r, r.port = .sample ∧
      core.run (k + 1) { s with inputs := .command .sample (encode (.pull n)) :: (List.replicate k .pullTurn ++ rest) } =
        .next ((s.accept .sample rest).inPull r rest) := by
  have htaken := h.accept .sample (List.replicate k .pullTurn ++ rest)
  have hbegin : step { s with inputs := .command .sample (encode (.pull n)) :: (List.replicate k .pullTurn ++ rest) } =
      exec (.pull n) (s.accept .sample (List.replicate k .pullTurn ++ rest)) :=
    step_of_decode_ok
      (s := { s with inputs := .command .sample (encode (.pull n)) :: (List.replicate k .pullTurn ++ rest) })
      ⟨rfl, .inl hpull⟩ (decode_encode (decide_eq_true hmax))
  rw [htaken.exec_pull_eq_step hconf hclear (by omega) (feeds_replicate _ rest) (k := k) rfl] at hbegin
  obtain ⟨c, hsamples, -, -⟩ := htaken.run_samples hconf hclear (feeds_replicate _ rest) (htaken.cursor hconf) (k + 1)
    (r := (s.accept .sample _).newPull n) (by simpa [State.newPull] using hroom) hleft
  exact ⟨_, rfl, (core_run_congr hbegin k).trans hsamples⟩

/-- Settles O44: the run reaches the INJECT with nothing moved but the PULL, the INJECT faults there as before the PULL, and the
next turn ends the PULL without a sample. -/
theorem faultingInjectInsideAPullIsOneBeforeIt : Obligations.FaultingInjectInsideAPullIsOneBeforeIt := by
  unfold Obligations.FaultingInjectInsideAPullIsOneBeforeIt
  intro s n k p record cause rest hs hclear hconf hpull hmax hport hroom hleft hfault inject pull faulted
  have hinject {u : State} (huclear : u.faulted = false) (huconf : u.configured = true) (hbuild : u.build = s.build) :
      exec (.inject record) u = .next (u.afterFault 0x4 cause) :=
    exec_inject_fault_of_same_build hclear hconf hfault huclear huconf hbuild
  constructor
  case left =>
    obtain ⟨r, hr, hrun⟩ := hs.run_to_command hconf hclear hpull hmax hroom hleft (inject :: .pullTurn :: rest)
    have htaken : step ((s.accept .sample (inject :: .pullTurn :: rest)).inPull r (inject :: .pullTurn :: rest)) =
        .next (((s.accept p (.pullTurn :: rest)).inPull r (.pullTurn :: rest)).afterFault 0x4 cause) := by
      rw [step_inPull_of_command rfl (fallsInsidePull_inject record) (hr ▸ hport)]
      exact hinject (u := (s.accept p (.pullTurn :: rest)).inPull r (.pullTurn :: rest)) hclear hconf rfl
    have hended : step (((s.accept p (.pullTurn :: rest)).inPull r (.pullTurn :: rest)).afterFault 0x4 cause) =
        .next (faulted p) := by
      rw [step_of_pullTurn (s := ((s.accept p (.pullTurn :: rest)).inPull r (.pullTurn :: rest)).afterFault 0x4 cause) rfl rfl,
        resumePull_of_faulted rfl]
      refine congrArg Host.Outcome.next ?_
      apply State.ext
      case pull => exact hpull.symm
      case replies => simp [faulted, State.afterFault, State.inPull, hr]
      all_goals rfl
    exact (core_run_add hrun 2).trans ((core_run_succ htaken 1).trans ((core_run_one _).trans hended))
  case right =>
    have htaken : step { s with inputs := inject :: pull :: rest } = .next ((s.accept p (pull :: rest)).afterFault 0x4 cause) := by
      rw [step_of_decode_ok (s := { s with inputs := inject :: pull :: rest }) ⟨rfl, .inl hpull⟩ (decode_encode rfl)]
      exact hinject hclear hconf rfl
    have hignored : step ((s.accept p (pull :: rest)).afterFault 0x4 cause) = .next (faulted .sample) := by
      rw [step_of_decode_ok (s := (s.accept p (pull :: rest)).afterFault 0x4 cause) ⟨rfl, .inl hpull⟩
        (decode_encode (decide_eq_true hmax)), exec_of_faulted rfl (by simp) (by simp) (by simp)]
      refine congrArg Host.Outcome.next ?_
      apply State.ext
      case replies => simp [faulted, State.afterFault, State.accept]
      all_goals rfl
    exact (core_run_succ htaken 1).trans ((core_run_one _).trans hignored)

/-! ### SET_STATUS inside a STATUS Segment (R28) -/

/-- The cursor in front of sample `i` of the STATUS Segment at `c`, of `len` samples, that carries the bit `bit`; behind its last
sample it is the next Segment's start. -/
def PullCursor.inStatus (c : PullCursor) (len i : Nat) (bit : Bool) : PullCursor :=
  if i = len then { seg := c.seg + 1, off := 0, latch := bit } else { seg := c.seg, off := BitVec.ofNat 32 i, latch := bit }

section
variable {s : State} {r : PullRun} {g : Segment} {rest : List Input}

/-- One turn inside a STATUS Segment: sample `i` of the line code of the bit it carries, and the cursor in front of the next. -/
theorem step_inPull_of_status {c : PullCursor} {i : Nat} {bit latch : Bool} (hclear : s.faulted = false)
    (hseg : (s.atCursor c).curSeg = some g) (hk : g.kind = .status) (hg : g.Legal s.build) (hi : i < g.len s.build)
    (hcursor : r.cursor = { seg := c.seg, off := BitVec.ofNat 32 i, latch := latch })
    (hbit : s.carriedBit r.cursor g = bit) (hroom : r.out.length + 1 < r.count) :
    ∃ v, (linePair s.build bit)[i]? = some v ∧
      step (s.inPull r (.pullTurn :: rest)) = .next (s.inPull (r.emit v (c.inStatus (g.len s.build) (i + 1) bit)) rest) := by
  have hlen := len_lt hg
  have hoff : r.cursor.off.toNat = i := by
    rw [hcursor]
    exact Nat.mod_eq_of_lt (by omega)
  have hhere : (s.atCursor r.cursor).curSeg = some g := by
    rw [← hseg]
    refine curSeg_congr rfl rfl rfl ?_
    rw [State.atCursor_seg, hcursor]
    rfl
  have hnext : s.cursorAfter r.cursor g = c.inStatus (g.len s.build) (i + 1) bit := by
    rw [State.cursorAfter, PullCursor.inStatus, hbit, hoff, hcursor]
    split
    · rfl
    · rw [BitVec.ofNat_add]
      rfl
  obtain ⟨v, hv⟩ := exists_sampleFrom (c := r.cursor) hg (by rwa [hoff])
  refine ⟨v, ?_, ?_⟩
  · rwa [State.sampleFrom, hbit, hoff, stream_status hk] at hv
  · rw [step_inPull_of_sample hclear hroom hhere (by rw [hk]; decide) hv, hnext]

/-- From its sample `i` on, a STATUS Segment sends the line code of the bit it carries, whatever SET_STATUS commands fall
between its samples or behind them. -/
theorem run_status_segment {c : PullCursor} {bit : Bool} {ins : List Input} {i : Nat} (hclear : s.faulted = false)
    (hseg : (s.atCursor c).curSeg = some g) (hk : g.kind = .status) (hg : g.Legal s.build) (hport : r.port ≠ .status)
    (hroom : r.out.length + g.len s.build < r.count) (hpos : 1 ≤ i) (hcount : i + ins.count .pullTurn = g.len s.build)
    (hins : ∀ x ∈ ins, x = .pullTurn ∨ ∃ bit, x = .command .status (encode (.setStatus bit))) :
    ∃ t, core.run ins.length
        (s.inPull (r.extend ((linePair s.build bit).take i) (c.inStatus (g.len s.build) i bit)) ins) = .next t ∧
      t.inputs = [] ∧
      t.pull = some (r.extend (linePair s.build bit) (c.inStatus (g.len s.build) (g.len s.build) bit)) := by
  have hlen : (linePair s.build bit).length = g.len s.build := by
    rw [← stream_status hk, stream_length hg]
  induction ins generalizing s i with
  | nil =>
    obtain rfl : i = g.len s.build := hcount
    exact ⟨_, rfl, rfl, by rw [List.take_of_length_le hlen.le]; rfl⟩
  | cons x ins ih =>
    obtain ⟨hx, hrest⟩ := List.forall_mem_cons.mp hins
    obtain rfl | ⟨bit', rfl⟩ := hx
    · rw [List.count_cons_self] at hcount
      have hi : i < g.len s.build := by omega
      have hcursor : c.inStatus (g.len s.build) i bit = { seg := c.seg, off := BitVec.ofNat 32 i, latch := bit } :=
        if_neg (Nat.ne_of_lt hi)
      have hoff : BitVec.ofNat 32 i ≠ 0 := fun hzero => by
        have hmod : i % 2 ^ 32 = 0 := congrArg BitVec.toNat hzero
        rw [Nat.mod_eq_of_lt (by have := len_lt hg; omega)] at hmod
        omega
      obtain ⟨v, hv, hstep⟩ := step_inPull_of_status (rest := ins)
        (r := r.extend ((linePair s.build bit).take i) (c.inStatus (g.len s.build) i bit)) (bit := bit) hclear hseg hk hg hi
        hcursor (by rw [PullRun.extend, hcursor]; exact if_neg fun h => hoff h.2)
        (by simp only [PullRun.extend, List.length_append, List.length_take]; omega)
      have htake : (linePair s.build bit).take i ++ [v] = (linePair s.build bit).take (i + 1) := by
        rw [List.take_add_one, hv]
        rfl
      rw [emit_eq_extend, extend_extend, htake] at hstep
      obtain ⟨t, hrun, ht⟩ := ih hclear hseg hg hroom (Nat.succ_pos i) (by omega) hrest hlen
      exact ⟨t, (core_run_succ hstep _).trans hrun, ht⟩
    · rw [List.count_cons_of_ne (by simp)] at hcount
      have hstep := step_inPull_of_command (s := s) (rest := ins)
        (r := r.extend ((linePair s.build bit).take i) (c.inStatus (g.len s.build) i bit)) rfl (fallsInsidePull_setStatus bit')
        hport.symm
      have hexec := exec_setStatus_of_clear (s := (s.inPull (r.extend ((linePair s.build bit).take i)
        (c.inStatus (g.len s.build) i bit)) ins).accept .status ins) bit' hclear
      obtain ⟨t, hrun, ht⟩ := ih (s := ((s.accept .status ins).writeStatusCell bit').respond .ok 0) hclear hseg hg hroom hpos
        hcount hrest hlen
      exact ⟨t, (core_run_succ (hstep.trans hexec) _).trans hrun, ht⟩

end

/-- Settles O46: the first turn loads the cell's bit and sends its first sample, and `run_status_segment` is the rest. -/
theorem statusSegmentCarriesOneLineCodePair : Obligations.StatusSegmentCarriesOneLineCodePair := by
  unfold Obligations.StatusSegmentCarriesOneLineCodePair
  intro s r g hs hclear hpull hport hseg hk hoff hroom hhead hcount hins
  obtain ⟨f, hf, hgf⟩ := curSeg_eq_some_iff.mp hseg
  have hg : g.Legal s.build := segment_legal (hs.curFrame_legal (hs.configured_of_pull hpull) hf) hgf
  have hlen : g.len s.build = 2 * s.build.os := by
    rw [Segment.len, (hg.1 hk).1, Nat.mul_one]
  have hos := s.build.os_range.1
  obtain ⟨rest, hrest⟩ := List.head?_eq_some_iff.mp hhead
  have hself : s = s.inPull r (.pullTurn :: rest) := by
    rw [← withInputs_eq_inPull hpull, ← hrest]
  rw [hrest, List.count_cons_self] at hcount
  rw [hrest] at hins
  obtain ⟨v, hv, hstep⟩ := step_inPull_of_status (rest := rest) (c := r.cursor) (i := 0) (bit := s.bi)
    (latch := r.cursor.latch) hclear hseg hk hg (by omega) (congrArg (PullCursor.mk r.cursor.seg · r.cursor.latch) hoff)
    (if_pos ⟨hk, hoff⟩) (by omega)
  have htake : [v] = (linePair s.build s.bi).take 1 := by
    rw [List.take_add_one, hv]
    rfl
  rw [emit_eq_extend, htake, ← hself] at hstep
  obtain ⟨t, hrun, hinputs, hend⟩ := run_status_segment (s := s) (r := r) (c := r.cursor) (bit := s.bi) (ins := rest) hclear hseg
    hk hg hport (by omega) le_rfl (by omega) (List.forall_mem_cons.mp hins).2
  refine ⟨t, ?_, hinputs, ?_⟩
  · rw [hrest, List.length_cons]
    exact (core_run_succ hstep _).trans hrun
  · rw [hend, PullCursor.inStatus, if_pos rfl]
    rfl

end Sys2Proof.Machine
end

section
/-! Whole Frames, one PULL each (R87, R91 to R93): which Frame each slot sends, as the queue's Frames take the filler slots, and
the run that sends them. -/

namespace Sys2Proof.Machine

/-! ### The schedule from a state on -/

section
variable (s : State)

/-- The Superframe's own Frame of the slot `i` advances on (R87). -/
def State.ownFrame (i : Nat) : Option Frame :=
  s.sf[(s.slot.toNat + i) % s.fc.toNat]?

/-- Whether the slot `i` advances on is a filler slot. -/
def State.fillerAt (i : Nat) : Bool :=
  (s.ownFrame i).any Frame.filler

/-- How many filler slots are among the first `i` that are entered. -/
def State.fillersEntered (i : Nat) : Nat :=
  (List.range i).countP fun e => s.fillerAt (e + 1)

/-- The Frame that stands in for the slot `i` advances on: each filler slot that is entered takes the queue's next (R87). -/
def State.injectedAt : Nat → Option Frame
  | 0 => s.inj
  | i + 1 => if s.fillerAt (i + 1) then s.q[s.fillersEntered i]? else none

/-- The Frame that is sent `i` advances on. -/
def State.sentFrame (i : Nat) : Option Frame :=
  (s.injectedAt i).or (s.ownFrame i)

/-- The response to a PULL of `s`'s block that fetches the whole Frame `f`, at a constant status cell (R84, R91). -/
def State.frameReply (f : Frame) : Reply :=
  { port := .sample
    code := .ok
    data := BitVec.ofNat 32 (f.len s.build)
    samples := f.stream s.build s.bi }

theorem fillersEntered_succ (i : Nat) :
    s.fillersEntered (i + 1) = s.fillersEntered i + if s.fillerAt (i + 1) then 1 else 0 := by
  rw [State.fillersEntered, List.range_succ, List.countP_append, List.countP_singleton]
  rfl

/-- The current Frame is the injected one, or the slot's own (R26). -/
theorem curFrame_eq_or : s.curFrame = s.inj.or s.sf[s.slot.toNat]? := by
  unfold State.curFrame
  cases s.inj <;> rfl

end

/-- The state `t` stands at the start of a Frame, `i` advances on from `s`, between two PULLs, and nothing but the cursor, the
latch, the injected Frame, the queue and what lies outside the block has changed. -/
structure Scheduled (s : State) (i : Nat) (t : State) : Prop where
  inv : t.Inv
  clear : t.faulted = false
  configured : t.configured = true
  idle : t.pull = none
  build : t.build = s.build
  sf : t.sf = s.sf
  fc : t.fc = s.fc
  bi : t.bi = s.bi
  slot : t.slot.toNat = (s.slot.toNat + i) % s.fc.toNat
  seg : t.seg = 0
  off : t.off = 0
  inj : t.inj = s.injectedAt i
  q : t.q = s.q.drop (s.fillersEntered i)

section
variable {s t : State} {n m i : Nat}

/-- The schedule starts where the block is. -/
theorem scheduled_start (h : s.Inv) (hclear : s.faulted = false) (hconf : s.configured = true) (hpull : s.pull = none)
    (hseg : s.seg = 0) (hoff : s.off = 0) : Scheduled s 0 s where
  inv := h
  clear := hclear
  configured := hconf
  idle := hpull
  build := rfl
  sf := rfl
  fc := rfl
  bi := rfl
  slot := (Nat.mod_eq_of_lt (h.cursor hconf).slot_lt).symm
  seg := hseg
  off := hoff
  inj := rfl
  q := rfl

/-- The current Frame is the one that is sent. -/
theorem Scheduled.curFrame (h : Scheduled s i t) : t.curFrame = s.sentFrame i := by
  rw [curFrame_eq_or, h.inj, h.sf, h.slot]
  rfl

/-- There is a current Frame, and it is legal. -/
theorem Scheduled.exists_frame (h : Scheduled s i t) : ∃ f, s.sentFrame i = some f ∧ f.Legal s.build := by
  obtain ⟨-, ⟨g, hseg, -⟩, -⟩ := h.inv.cursor h.configured
  obtain ⟨f, hf, -⟩ := curSeg_eq_some_iff.mp hseg
  exact ⟨f, h.curFrame ▸ hf, h.build ▸ h.inv.curFrame_legal h.configured hf⟩

/-- The frame advance that ends a PULL leads to the next slot of the schedule (R87). -/
theorem Scheduled.advance (h : Scheduled s i t) (c : PullCursor) (r : PullRun) {f : Frame}
    (hf : t.sf[(t.slot.toNat + 1) % t.fc.toNat]? = some f) :
    Scheduled s (i + 1) ((((t.atCursor c).enterSlot ((t.slot.toNat + 1) % t.fc.toNat)).substitute f).finishPull r) := by
  have hinv := h.inv.advance h.configured c r hf
  have hslot : (t.slot.toNat + 1) % t.fc.toNat = (s.slot.toNat + (i + 1)) % s.fc.toNat := by
    rw [h.slot, h.fc, Nat.mod_add_mod, Nat.add_assoc]
  have hown : s.ownFrame (i + 1) = some f := by
    rw [State.ownFrame, ← hslot, ← h.sf, hf]
  have hfiller : s.fillerAt (i + 1) = f.filler := by
    rw [State.fillerAt, hown]
    rfl
  obtain ⟨hinj, hq⟩ := substitute_enterSlot (t.atCursor c) ((t.slot.toNat + 1) % t.fc.toNat) f
  refine ⟨hinv, ?_, ?_, rfl, ?_, ?_, ?_, ?_, ?_, ?_, ?_, ?_, ?_⟩
  case refine_1 => simpa using h.clear
  case refine_2 => simpa using h.configured
  case refine_3 => simpa using h.build
  case refine_4 => simpa using h.sf
  case refine_5 => simpa using h.fc
  case refine_6 => simpa using h.bi
  case refine_7 =>
    have hnumber := h.inv.next_slot_toNat h.configured
    simpa [hslot] using hnumber
  case refine_8 => simp
  case refine_9 => simp
  case refine_10 =>
    rw [State.finishPull_inj, hinj, State.atCursor_q, h.q, State.injectedAt, hfiller, List.head?_drop]
  case refine_11 =>
    rw [State.finishPull_q, hq, State.atCursor_q, h.q, fillersEntered_succ, hfiller]
    cases f.filler with
    | true => rw [if_pos rfl, if_pos rfl, List.tail_drop]
    | false => rfl

/-- A PULL from the sample port waits behind another one on that port (R48). -/
theorem waitsFor_replicate (r : PullRun) (hport : r.port = .sample) (m : Nat) (c : Command) :
    WaitsFor r (List.replicate m (.command .sample c)) := by
  cases m with
  | zero => exact .inl rfl
  | succ m => exact .inr ⟨.sample, c, List.replicate m (.command .sample c), rfl, waitsForPull_iff.mpr (.inl hport.symm)⟩

/-- A PULL larger than the current Frame fetches the whole Frame, and the block stands at the start of the next (R87 to R91). -/
theorem Scheduled.fetch (h : Scheduled s i t) (hmax : n ≤ 0xFFFFFF) (hlen : ∀ f, s.sentFrame i = some f → f.len s.build < n)
    (hins : t.inputs = List.replicate (m + 1) (.command .sample (encode (.pull n)))) :
    ∃ k u f, core.run k t = .next u ∧ Scheduled s (i + 1) u ∧ s.sentFrame i = some f ∧
      u.inputs = List.replicate m (.command .sample (encode (.pull n))) ∧ u.replies = t.replies ++ [s.frameReply f] := by
  obtain ⟨f, hf, hlegal⟩ := h.exists_frame
  have hleft : t.remaining = f.stream s.build s.bi := by
    rw [remaining_at_start (h.curFrame.trans hf) h.seg h.off, h.build, h.bi]
  have hcount : t.remaining.length = f.len s.build := by
    rw [hleft, frame_stream_length hlegal]
  have hn : f.len s.build < n := hlen f hf
  let taken := t.accept .sample (List.replicate m (.command .sample (encode (.pull n))))
  have htaken : Scheduled s i taken :=
    ⟨h.inv.accept _ _, h.clear, h.configured, h.idle, h.build, h.sf, h.fc, h.bi, h.slot, h.seg, h.off, h.inj, h.q⟩
  have hwaits : WaitsFor (taken.newPull n) taken.inputs := waitsFor_replicate _ rfl m _
  have hstep : step t = step (taken.inPull (taken.newPull n) taken.inputs) := by
    rw [step_of_decode_ok (s := t) ⟨hins, .inl h.idle⟩ (decode_encode (decide_eq_true hmax))]
    exact htaken.inv.exec_pull_eq_step h.configured h.clear (by omega) (feeds_of_waitsFor hwaits) (k := 0) rfl
  obtain ⟨c, f', hf', hrun⟩ := htaken.inv.run_pull_short h.configured h.clear hwaits (htaken.inv.cursor h.configured) (by
    change 0 + t.remaining.length < n
    omega)
  refine ⟨_, _, f, (core_run_congr hstep _).trans hrun, htaken.advance c _ hf', hf, by simp [taken], ?_⟩
  have hout : ((taken.newPull n).extend t.remaining c).out = f.stream s.build s.bi := hleft
  change (State.finishPull _ ((taken.newPull n).extend t.remaining c)).replies = _
  rw [State.finishPull_replies, hout, frame_stream_length hlegal, State.substitute_replies, State.enterSlot_replies]
  rfl

/-- One PULL after another fetches the Frames of the schedule, in its order. -/
theorem Scheduled.run_frames (h : Scheduled s i t) (hmax : n ≤ 0xFFFFFF)
    (hlen : ∀ e f, s.sentFrame e = some f → f.len s.build < n)
    (hins : t.inputs = List.replicate m (.command .sample (encode (.pull n)))) :
    ∃ k u, ∃ fs : List Frame, core.run k t = .next u ∧ Scheduled s (i + m) u ∧ u.inputs = [] ∧ fs.length = m ∧
      (∀ e, e < m → fs[e]? = s.sentFrame (i + e)) ∧ u.replies = t.replies ++ fs.map s.frameReply := by
  induction m generalizing i t with
  | zero => exact ⟨0, t, [], rfl, h, hins, rfl, fun e he => absurd he (Nat.not_lt_zero e), (List.append_nil _).symm⟩
  | succ m ih =>
    obtain ⟨k, u, f, hrun, hu, hf, hrest, hreplies⟩ := h.fetch hmax (hlen i) hins
    obtain ⟨k', u', fs, hrun', hu', hdone, hfs, hsent, hreplies'⟩ := ih hu hrest
    refine ⟨k + k', u', f :: fs, (core_run_add hrun k').trans hrun', ?_, hdone, by rw [List.length_cons, hfs], ?_, ?_⟩
    · rwa [Nat.add_assoc, Nat.add_comm 1 m] at hu'
    · intro e he
      cases e with
      | zero => exact hf.symm
      | succ e =>
        rw [List.getElem?_cons_succ, hsent e (Nat.lt_of_succ_lt_succ he), Nat.add_assoc, Nat.add_comm 1 e]
    · rw [hreplies', hreplies, List.append_assoc]
      rfl

/-- Every Frame that is sent is the injected one, one of the queue or one of the Superframe. -/
theorem sentFrame_mem {f : Frame} (h : s.sentFrame i = some f) : s.inj = some f ∨ f ∈ s.q ∨ f ∈ s.sf := by
  obtain hinjected | ⟨-, hown⟩ := Option.or_eq_some_iff.mp h
  · cases i with
    | zero => exact .inl hinjected
    | succ i =>
      rw [State.injectedAt] at hinjected
      split at hinjected
      · exact .inr (.inl (List.mem_of_getElem? hinjected))
      · contradiction
  · exact .inr (.inr (List.mem_of_getElem? hown))

/-- Without an injected Frame and a queued one no slot takes an injected Frame. -/
theorem injectedAt_of_empty (hinj : s.inj = none) (hq : s.q = []) (i : Nat) : s.injectedAt i = none := by
  cases i with
  | zero => exact hinj
  | succ i => simp [State.injectedAt, hq]

/-- Without an injected Frame and a queued one the Superframe's own Frames are sent. -/
theorem sentFrame_of_empty (hinj : s.inj = none) (hq : s.q = []) (i : Nat) : s.sentFrame i = s.ownFrame i := by
  rw [State.sentFrame, injectedAt_of_empty hinj hq, Option.none_or]

end

/-! ### One cycle (R92) -/

/-- Settles O37: the schedule of one cycle is the Superframe, and behind it the cursor is back at its start. -/
theorem oneCycleSendsTheSuperframeInOrder : Obligations.OneCycleSendsTheSuperframeInOrder := by
  unfold Obligations.OneCycleSendsTheSuperframeInOrder
  intro s n hs hclear hconf hpull hinj hq hslot hseg hoff hmax hlen hins
  obtain ⟨⟨⟨-, hall, -⟩, hcycle, -⟩, hfc⟩ := hs.superframe hconf
  have hstart : s.slot.toNat = 0 := congrArg BitVec.toNat hslot
  have hown (i : Nat) : s.ownFrame i = s.sf[i % s.sf.length]? := by
    rw [State.ownFrame, hstart, hfc, Nat.zero_add]
  have hsmall (i : Nat) (f : Frame) (hf : s.sentFrame i = some f) : f.len s.build < n := by
    rw [sentFrame_of_empty hinj hq] at hf
    exact hlen f (List.mem_of_getElem? hf)
  obtain ⟨k, t, fs, hrun, ht, hdone, hcount, hsent, hreplies⟩ :=
    (scheduled_start hs hclear hconf hpull hseg hoff).run_frames hmax hsmall hins
  have hfs : fs = s.sf := by
    apply List.ext_getElem?
    intro i
    obtain hi | hi := Nat.lt_or_ge i s.sf.length
    · rw [hsent i hi, Nat.zero_add, sentFrame_of_empty hinj hq, hown, Nat.mod_eq_of_lt hi]
    · rw [List.getElem?_eq_none (hcount ▸ hi), List.getElem?_eq_none hi]
  subst hfs
  have hnew := newReplies_of_append hreplies
  have hsamples : (s.sf.map fun f => (s.frameReply f).samples.length) = s.sf.map (Frame.len s.build) :=
    List.map_congr_left fun f hf => frame_stream_length (hall f hf).1 s.bi
  refine ⟨k, t, hrun, hdone, ht.idle, hnew, ?_, ?_, ht.seg, ht.off, ?_, ?_, ht.sf, ht.bi⟩
  · rw [hnew, List.map_map]
    exact (congrArg List.sum hsamples).trans ((sum_len_eq_iff_sum_bits_eq.mpr hcycle).trans (by rw [hfc]))
  · apply BitVec.eq_of_toNat_eq
    rw [ht.slot, hstart, hfc, Nat.zero_add, Nat.zero_add, Nat.mod_self]
    rfl
  · exact ht.inj.trans (injectedAt_of_empty hinj hq _)
  · rw [ht.q, hq, List.drop_nil]

/-! ### Injected Frames (R93) -/

/-- The response to an INJECT that queues its Frame (R94). -/
def queuedReply : Reply :=
  { port := .inject, code := .ok, data := 0, samples := [] }

section
variable {s : State} {n m : Nat} {j : Frame}

/-- An injectable Frame has the length of every Frame of the burst (R29, R91). -/
theorem len_of_injectable {b : Build} {f : Frame} (hf : f.Injectable b) : f.len b = 2 * b.bpf * b.os := by
  obtain ⟨-, -, -, hbits⟩ := hf
  rw [frame_len_eq, hbits]

/-- Every Frame that is sent is shorter than a PULL that is larger than the Superframe's Frames and than an injectable one. -/
theorem sentFrame_len_lt (h : s.Inv) (hlen : ∀ f ∈ s.sf, f.len s.build < n) (hinjectable : 2 * s.build.bpf * s.build.os < n)
    {i : Nat} {f : Frame} (hf : s.sentFrame i = some f) : f.len s.build < n := by
  obtain hinj | hqueued | hown := sentFrame_mem hf
  · exact (len_of_injectable (h.injected f hinj)).trans_lt hinjectable
  · exact (len_of_injectable (h.queue f hqueued)).trans_lt hinjectable
  · exact hlen f hown

/-- An INJECT of an injectable Frame into a queue that is not full, and then `m` PULLs larger than every Frame: the Frames that
are sent are those of the schedule with `j` at the queue's tail (R93). -/
theorem State.Inv.run_inject (h : s.Inv) (hclear : s.faulted = false) (hconf : s.configured = true) (hpull : s.pull = none)
    (hseg : s.seg = 0) (hoff : s.off = 0) (hmax : n ≤ 0xFFFFFF) (hlen : ∀ f ∈ s.sf, f.len s.build < n)
    (hinjectable : 2 * s.build.bpf * s.build.os < n) (hj : j.Injectable s.build)
    (hroom : ¬(1 ≤ s.build.qdepth ∧ s.q.length = s.build.qdepth))
    (hins : s.inputs = .command .inject (encode (.inject j.record)) ::
      List.replicate m (.command .sample (encode (.pull n)))) :
    ∃ k t, ∃ fs : List Frame, core.run k s = .next t ∧ Scheduled (s.enqueue j) m t ∧ t.inputs = [] ∧ fs.length = m ∧
      (∀ e, e < m → fs[e]? = (s.enqueue j).sentFrame e) ∧ newReplies s t = queuedReply :: fs.map s.frameReply := by
  have hfull : s.queueFull = false := Bool.eq_false_iff.mpr (mt queueFull_iff.mp hroom)
  let rest : List Input := List.replicate m (.command .sample (encode (.pull n)))
  let queued : State := ((s.accept .inject rest).enqueue j).respond .ok 0
  have hstep : step s = .next queued := by
    rw [step_of_decode_ok (s := s) ⟨hins, .inl hpull⟩ (decode_encode rfl),
      exec_inject_of_ok (s := s.accept .inject rest) hclear hconf (parseInject_ok_iff.mpr ⟨rfl, hj⟩)]
    exact if_neg (Bool.eq_false_iff.mp hfull)
  have hinv : queued.Inv := ((h.accept .inject rest).enqueue hconf hj hfull).respond .ok 0
  have hstart : Scheduled (s.enqueue j) 0 queued :=
    ⟨hinv, hclear, hconf, hpull, rfl, rfl, rfl, rfl, (Nat.mod_eq_of_lt (h.cursor hconf).slot_lt).symm, hseg, hoff, rfl, rfl⟩
  obtain ⟨k, t, fs, hrun, ht, hdone, hcount, hsent, hreplies⟩ :=
    hstart.run_frames hmax (fun _ _ => sentFrame_len_lt (h.enqueue hconf hj hfull) hlen hinjectable) (m := m) rfl
  rw [Nat.zero_add] at ht
  refine ⟨k + 1, t, fs, (core_run_succ hstep k).trans hrun, ht, hdone, hcount, fun e he => ?_, newReplies_of_append ?_⟩
  · rw [hsent e he, Nat.zero_add]
  · rw [hreplies]
    exact List.append_assoc ..

/-- The slot `i + 1` advances on sends the queue's next Frame where it is a filler slot and the queue holds one, and else the
Superframe's own (R87). -/
theorem sentFrame_succ_eq_some {i : Nat} {f : Frame} (h : s.sentFrame (i + 1) = some f) :
    (s.fillerAt (i + 1) = true ∧ s.fillersEntered i < s.q.length → s.q[s.fillersEntered i]? = some f) ∧
      (¬(s.fillerAt (i + 1) = true ∧ s.fillersEntered i < s.q.length) → s.ownFrame (i + 1) = some f) := by
  rw [State.sentFrame, State.injectedAt] at h
  constructor
  · rintro ⟨hfiller, hqueued⟩
    rw [if_pos hfiller, List.getElem?_eq_getElem hqueued, Option.some_or] at h
    rw [List.getElem?_eq_getElem hqueued, h]
  · intro hown
    split at h
    next hfiller =>
      rwa [List.getElem?_eq_none (Nat.le_of_not_lt fun hlt => hown ⟨hfiller, hlt⟩), Option.none_or] at h
    next => rwa [Option.none_or] at h

/-- No filler slot is among the first `i` entered exactly where none of them is one. -/
theorem fillersEntered_eq_zero_iff {i : Nat} : s.fillersEntered i = 0 ↔ ∀ e, e < i → s.fillerAt (e + 1) = false := by
  simp [State.fillersEntered, List.countP_eq_zero]

theorem fillerAt_iff {i : Nat} : s.fillerAt i = true ↔ ∃ f, s.ownFrame i = some f ∧ f.filler = true :=
  Option.any_eq_true ..

/-- The first filler slot entered is the filler slot before which none was entered. -/
theorem first_filler_iff {d i : Nat} (hd : 1 ≤ d) (hfiller : ∃ f, s.ownFrame d = some f ∧ f.filler = true)
    (hbefore : ∀ e f, 1 ≤ e → e < d → s.ownFrame e = some f → f.filler = false) :
    s.fillerAt (i + 1) = true ∧ s.fillersEntered i = 0 ↔ i + 1 = d := by
  have hnone (e : Nat) (hpos : 1 ≤ e) (he : e < d) : s.fillerAt e = false := by
    rw [Bool.eq_false_iff]
    intro hat
    obtain ⟨f, hf, hyes⟩ := fillerAt_iff.mp hat
    exact Bool.false_ne_true ((hbefore e f hpos he hf).symm.trans hyes)
  have hat : s.fillerAt d = true := fillerAt_iff.mpr hfiller
  constructor
  · rintro ⟨hslot, hempty⟩
    obtain hlt | heq | hgt := Nat.lt_trichotomy (i + 1) d
    · rw [hnone (i + 1) (Nat.succ_pos i) hlt] at hslot
      contradiction
    · exact heq
    · obtain ⟨e, rfl⟩ : ∃ e, d = e + 1 := ⟨d - 1, by omega⟩
      rw [fillersEntered_eq_zero_iff.mp hempty e (by omega)] at hat
      contradiction
  · rintro rfl
    exact ⟨hat, fillersEntered_eq_zero_iff.mpr fun e he => hnone (e + 1) (Nat.succ_pos e) (Nat.succ_lt_succ he)⟩

end

/-- Settles O39: `State.Inv.run_inject`, with the Frame of each slot by `sentFrame_succ_eq_some`. -/
theorem queuedFramesTakeTheNextFillerSlotsInOrder : Obligations.QueuedFramesTakeTheNextFillerSlotsInOrder := by
  unfold Obligations.QueuedFramesTakeTheNextFillerSlotsInOrder
  intro s n m j hs hclear hconf hpull hseg hoff hmax hlen hinjectable hj hroom hins own isFiller entered reply
  obtain ⟨k, t, fs, hrun, ht, hdone, hcount, hsent, hnew⟩ :=
    hs.run_inject hclear hconf hpull hseg hoff hmax hlen hinjectable hj hroom hins
  have hframe {e : Nat} (he : e < m) : ∃ f, (s.enqueue j).sentFrame e = some f ∧ (newReplies s t)[e + 1]? = some (reply f) := by
    have hfs : fs[e]? = some fs[e] := List.getElem?_eq_getElem (hcount ▸ he)
    refine ⟨fs[e], (hsent e he).symm.trans hfs, ?_⟩
    rw [hnew, List.getElem?_cons_succ, List.getElem?_map, hfs]
    rfl
  refine ⟨k, t, hrun, hdone, ht.idle, ht.sf, ht.q, ?_, ?_, ?_, ?_⟩
  · rw [hnew, List.length_cons, List.length_map, hcount]
  · rw [hnew]
    rfl
  · intro hm
    obtain ⟨f, hf, hreply⟩ := hframe hm
    exact ⟨f, (scheduled_start hs hclear hconf hpull hseg hoff).curFrame.trans hf, hreply⟩
  · intro i hi
    obtain ⟨f, hf, hreply⟩ := hframe hi
    obtain ⟨hqueued, hown⟩ := sentFrame_succ_eq_some hf
    have hlength : (s.enqueue j).q.length = s.q.length + 1 := List.length_append
    rw [hlength, Nat.lt_succ_iff] at hqueued hown
    exact ⟨f, hqueued, hown, hreply⟩

/-- Settles O38: O39's schedule for an empty queue, whose only Frame goes into the first filler slot. -/
theorem injectedFrameIsSentOnceInTheNextFillerSlot : Obligations.InjectedFrameIsSentOnceInTheNextFillerSlot := by
  unfold Obligations.InjectedFrameIsSentOnceInTheNextFillerSlot
  intro s n d m j hs hclear hconf hpull hinj hq hseg hoff hmax hlen hj hjlen hd hfiller hbefore hins
  have hinjectable : 2 * s.build.bpf * s.build.os < n := len_of_injectable hj ▸ hjlen
  have hroom : ¬(1 ≤ s.build.qdepth ∧ s.q.length = s.build.qdepth) := by
    rw [hq, List.length_nil]
    omega
  obtain ⟨k, t, hrun, hdone, hidle, hsf, -, hcount, hqueued, hfirst, hlater⟩ :=
    queuedFramesTakeTheNextFillerSlotsInOrder s n m j hs hclear hconf hpull hseg hoff hmax hlen hinjectable hj hroom hins
  refine ⟨k, t, hrun, hdone, hidle, hsf, hcount, hqueued, fun i hi => ?_⟩
  cases i with
  | zero =>
    obtain ⟨f, hf, hreply⟩ := hfirst hi
    refine ⟨f, fun heq => absurd heq (Nat.ne_of_lt hd), fun _ => ?_, hreply⟩
    rwa [curFrame_eq_or, hinj, Option.none_or, ← Nat.mod_eq_of_lt (hs.cursor hconf).slot_lt] at hf
  | succ i =>
    obtain ⟨f, hsent, hown, hreply⟩ := hlater i hi
    rw [hq, List.length_nil, Nat.le_zero] at hsent hown
    have hslots : s.fillerAt (i + 1) = true ∧ s.fillersEntered i = 0 ↔ i + 1 = d :=
      first_filler_iff hd hfiller hbefore
    refine ⟨f, fun heq => ?_, fun hne => hown (mt hslots.mp hne), hreply⟩
    have hslot := hslots.mpr heq
    have hj' : ([] ++ [j])[s.fillersEntered i]? = some f := hsent hslot
    rw [hslot.2] at hj'
    exact (Option.some.inj hj').symm

end Sys2Proof.Machine
end
